-- ==== Sys2Proof/Word.lean ====
section
/-! DEFINITION. The bit widths the spec names: bytes, 32-bit words, 16-bit compare values, 64-bit command words. -/

namespace Sys2Proof

/-- 8 bits: a colour channel, a brightness field, one byte of the frame buffer's byte view (R56, R81). -/
abbrev Byte := BitVec 8

/-- 32 bits: a frame-buffer element, a response word, a register of the host window (R22, R26, R54). -/
abbrev Word := BitVec 32

/-- 16 bits: a compare value, the compare register, the timer and DMA counters (R13, R31, R32). -/
abbrev Half := BitVec 16

/-- 64 bits: one command word (R81). -/
abbrev Command := BitVec 64

end Sys2Proof
end

