-- ==== Sys2Proof/Syntax.lean ====
section
/-! DEFINITION. The commands of spec/opcode_table.json, one constructor a row (R85). -/

namespace Sys2Proof

/-- The three host commands (R85). Every operand has the width of its field (R81), so no out-of-width operand can
be written down; the range checks `index < N` and `bright <= 100` belong to SET_PIXEL itself (R83, R116). -/
inductive Instr where
  /-- SET_PIXEL (R117). -/
  | setPixel (index : BitVec 16) (bright red green blue : Byte)
  /-- SUBMIT_FRAME (R140). -/
  | submitFrame
  /-- QUERY_BUSY (R143). -/
  | queryBusy
deriving DecidableEq, Repr

end Sys2Proof
end

