-- ==== Sys2Proof/WellFormed.lean ====
section
/-! DEFINITION. Well-formedness: of a 64-bit command word against the opcode map (R84, R85, R87), and of an assembler
command, whose operands are numbers that may not fit their fields (R93). An `Instr` is well formed by its type. -/

namespace Sys2Proof

/-- One row of the opcode map of R85. -/
structure OpcodeRow where
  pattern : Command
  mask : Command
deriving DecidableEq, Repr

/-- A word selects a row exactly when `w & mask = match` (R85). -/
def OpcodeRow.selects (row : OpcodeRow) (w : Command) : Bool := w &&& row.mask == row.pattern

/-- The row of SET_PIXEL (R85). -/
def rowSetPixel : OpcodeRow := ⟨0x1000000000000000, 0xFF000000FF000000⟩
/-- The row of SUBMIT_FRAME (R85). -/
def rowSubmitFrame : OpcodeRow := ⟨0x2000000000000000, 0xFFFFFFFFFFFFFFFF⟩
/-- The row of QUERY_BUSY (R85). -/
def rowQueryBusy : OpcodeRow := ⟨0x3000000000000000, 0xFFFFFFFFFFFFFFFF⟩

/-- The whole opcode map (R85). -/
def opcodeMap : List OpcodeRow := [rowSetPixel, rowSubmitFrame, rowQueryBusy]

/-- The row an instruction's words belong to (R85). -/
def Instr.row : Instr → OpcodeRow
  | .setPixel _ _ _ _ _ => rowSetPixel
  | .submitFrame => rowSubmitFrame
  | .queryBusy => rowQueryBusy

/-- A command word is well formed when some row of the opcode map selects it; every other word is illegal (R85, R87). -/
def wordWellFormed (w : Command) : Bool := opcodeMap.any (fun row => row.selects w)

/-- An assembler command (R93): operands as the programmer writes them, numbers not yet known to fit. `word` is
`.cmd`, any 64-bit word. -/
inductive AsmCommand where
  | setPixel (index rrggbb bright : Nat)
  | submitFrame
  | queryBusy
  | word (w : Command)
deriving DecidableEq, Repr

/-- "It rejects an index above 65535 or a brightness above 255, which do not fit their fields", and `rrggbb` is
exactly 6 hex digits (R93). It does not check `index < N` or `bright <= 100`. -/
def AsmCommand.wellFormed : AsmCommand → Bool
  | .setPixel index rrggbb bright => index ≤ 65535 && rrggbb ≤ 0xFFFFFF && bright ≤ 255
  | .submitFrame => true
  | .queryBusy => true
  | .word _ => true

end Sys2Proof
end

