-- ==== Sys2Proof/Decode.lean ====
section
/-! DEFINITION. Decoding of command words (R80 to R92), total on every word and on every byte string, then the encoder,
the assembler (R93) and the host's pseudo-instructions (R94). -/

namespace Sys2Proof

/-- Why a word spells no command (R87). The name has no effect on the status, which is ILLEGAL_COMMAND for each. -/
inductive Illegal where
  /-- OP = 0x0 or OP in 0x4 to 0xF. -/
  | undefinedOp
  /-- a SET_PIXEL word with RSV0 or RSV1 non-zero. -/
  | reservedField
  /-- a SUBMIT_FRAME or QUERY_BUSY word with any of bits 59:0 non-zero. -/
  | reservedOperands
  /-- a byte string that is not exactly 8 bytes: every command is exactly 64 bits (R91). -/
  | wrongLength
deriving DecidableEq, Repr

/-- What Decode answers: a command, or Illegal with its reason (R86). -/
inductive Decoded where
  | command (i : Instr)
  | illegal (why : Illegal)
deriving DecidableEq, Repr

/-- OP = `cmd[63:60]` (R82). -/
def opField (w : Command) : BitVec 4 := w.extractLsb' 60 4
/-- RSV0 = `cmd[59:56]` (R81). -/
def rsv0Field (w : Command) : BitVec 4 := w.extractLsb' 56 4
/-- BRIGHT = `cmd[55:48]` (R81, R83). -/
def brightField (w : Command) : Byte := w.extractLsb' 48 8
/-- INDEX = `cmd[47:32]` (R81, R83). -/
def indexField (w : Command) : BitVec 16 := w.extractLsb' 32 16
/-- RSV1 = `cmd[31:24]` (R81). -/
def rsv1Field (w : Command) : Byte := w.extractLsb' 24 8
/-- RED = `cmd[23:16]` (R81, R83). -/
def redField (w : Command) : Byte := w.extractLsb' 16 8
/-- GREEN = `cmd[15:8]` (R81, R83). -/
def greenField (w : Command) : Byte := w.extractLsb' 8 8
/-- BLUE = `cmd[7:0]` (R81, R83). -/
def blueField (w : Command) : Byte := w.extractLsb' 0 8
/-- `cmd[59:0]`, which must be zero for SUBMIT_FRAME and QUERY_BUSY (R84). -/
def operandBits (w : Command) : BitVec 60 := w.extractLsb' 0 60

/-- Decode of R86: OP first, then the reserved fields, then the operands. -/
def decode (w : Command) : Decoded :=
  if opField w = 0x1 then
    if rsv0Field w ≠ 0 ∨ rsv1Field w ≠ 0 then .illegal .reservedField
    else .command (.setPixel (indexField w) (brightField w) (redField w) (greenField w) (blueField w))
  else if opField w = 0x2 then
    if operandBits w ≠ 0 then .illegal .reservedOperands else .command .submitFrame
  else if opField w = 0x3 then
    if operandBits w ≠ 0 then .illegal .reservedOperands else .command .queryBusy
  else .illegal .undefinedOp

/-- Eight bytes, the first at the lowest address, as one little-endian word (R56). -/
def wordOfBytes (b0 b1 b2 b3 b4 b5 b6 b7 : Byte) : Command :=
  b7 ++ b6 ++ b5 ++ b4 ++ b3 ++ b2 ++ b1 ++ b0

/-- Decoding of a byte string: exactly 8 bytes, little-endian (R56, R91). -/
def decodeBytes : List Byte → Decoded
  | [b0, b1, b2, b3, b4, b5, b6, b7] => decode (wordOfBytes b0 b1 b2 b3 b4 b5 b6 b7)
  | _ => .illegal .wrongLength

/-- The bytes of a number's low 8 bytes, the first at the lowest address (R56). -/
def bytesOfNat (w : Nat) : List Byte := (List.range 8).map (fun k => BitVec.ofNat 8 (w >>> (8 * k)))

/-- The instruction a decoder's answer holds, if any. -/
def Decoded.instr? : Decoded → Option Instr
  | .command i => some i
  | .illegal _ => none

/-- The instruction read from a word numbered as spec/opcode_table.json numbers it: bits above `nbits` are 0, the
word is laid out in bytes and given to the decoder. -/
def decodeTableWord (nbits w : Nat) : Option Instr := (decodeBytes (bytesOfNat (w % 2 ^ nbits))).instr?

/-- The command word `{OP, RSV0 = 0, BRIGHT, INDEX, RSV1 = 0, RED, GREEN, BLUE}` of SET_PIXEL, and the one word each of
SUBMIT_FRAME and QUERY_BUSY (R81, R84, R85). -/
def encode : Instr → Command
  | .setPixel index bright red green blue =>
      (0x1 : BitVec 4) ++ (0 : BitVec 4) ++ bright ++ index ++ (0 : Byte) ++ red ++ green ++ blue
  | .submitFrame => (0x2 : BitVec 4) ++ (0 : BitVec 60)
  | .queryBusy => (0x3 : BitVec 4) ++ (0 : BitVec 60)

/-- The assembler of R93: `(0x1 << 60) | (p << 48) | (i << 32) | 0xrrggbb`, after the width checks. -/
def assemble (a : AsmCommand) : Option Command :=
  if a.wellFormed then
    match a with
    | .setPixel index rrggbb bright =>
        some (BitVec.ofNat 64 ((0x1 <<< 60) ||| (bright <<< 48) ||| (index <<< 32) ||| rrggbb))
    | .submitFrame => some 0x2000000000000000
    | .queryBusy => some 0x3000000000000000
    | .word w => some w
  else none

/-- One line of a host program (R94): a command, a label, or one of the two branches on the last response. -/
inductive HostLine where
  | command (a : AsmCommand)
  | label (l : Nat)
  | ifBusyGoto (l : Nat)
  | ifStatusGoto (status : BitVec 2) (l : Nat)
deriving DecidableEq, Repr

/-- The pseudo-instructions of R94. -/
inductive Pseudo where
  | clearPixel (index : Nat)
  | clearAll
  | waitIdle
  | showFrame
deriving DecidableEq, Repr

/-- The expansions of R94 for a strip of `n` pixels; `fresh` is a label used nowhere else. -/
def Pseudo.expand (n fresh : Nat) : Pseudo → List HostLine
  | .clearPixel index => [.command (.setPixel index 0 0)]
  | .clearAll => (List.range n).map (fun index => .command (.setPixel index 0 0))
  | .waitIdle => [.label fresh, .command .queryBusy, .ifBusyGoto fresh]
  | .showFrame => [.label fresh, .command .queryBusy, .ifBusyGoto fresh, .command .submitFrame]

/-- Whether a branch of R94 is taken on the last response word: bit 8, or the status in bits 1:0. -/
def HostLine.taken (resp : Word) : HostLine → Bool
  | .command _ => false
  | .label _ => false
  | .ifBusyGoto _ => resp.getLsbD 8
  | .ifStatusGoto status _ => resp.extractLsb' 0 2 == status

end Sys2Proof
end

