-- ==== Sys2Proof/Machine/Event.lean ====
section
/-! DEFINITION. The steps the five agents of R6 can take, as plain data: the schedule of a run is a list of these. -/

namespace Sys2Proof.Machine

/-- One access of the host on its bus: a byte address, a width in bytes, and for a write its value (R59, R60).
A write that is not 32 bits wide never has its value used, so 32 bits of it are kept. -/
inductive BusAccess where
  | read (addr bytes : Nat)
  | write (addr bytes : Nat) (value : Word)
deriving DecidableEq, Repr, Inhabited

/-- One step of one agent (R6). HOST: `issue` and `access`; TIMER/DMA: `update` and `idlePeriod`;
COMPLETION: `complete`; ENV: `dmaError`; RESET: `reset`. -/
inductive Event where
  | issue (cmd : Command)
  | access (a : BusAccess)
  | update
  | idlePeriod
  | complete
  | dmaError
  | reset
deriving DecidableEq, Repr, Inhabited

end Sys2Proof.Machine
end

