-- ==== Sys2Proof/Config.lean ====
section
/-! DEFINITION. What a build fixes (R8 to R14, R49) and the one free value of the model: the choice of the next step. -/

namespace Sys2Proof

/-- The build parameters of R8 to R14. The spec leaves their values OPEN (92_eei_decisions.md D22), so they are data
that every statement quantifies over. `RESET_CODE` and `DMA_CNT_W` are fixed by the spec and stand below and in
the widths of State. -/
structure Build where
  /-- `N`, the strip length in pixels (R8). -/
  n : Nat
  /-- `R`, the number of reset/latch LED slots (R9). -/
  r : Nat
  /-- `CODE_1`, the compare value of a logical 1 bit (R10). -/
  code1 : Half
  /-- `CODE_0`, the compare value of a logical 0 bit (R10). -/
  code0 : Half
  /-- `PERIOD_TICKS`, timer-clock ticks in one bit period (R12). -/
  periodTicks : Nat
  /-- `F_TIMER_HZ`, the timer clock frequency (R12); no step reads it. -/
  timerHz : Nat
  /-- `FB_BASE`, the bus address of frame-buffer element 0 (R14). -/
  fbBase : Nat
  /-- `CCR_ADDR`, the bus address of the compare register (R14). -/
  ccrAddr : Nat
  /-- `MMIO_BASE`, the bus address of the host register window (R14). -/
  mmioBase : Nat
deriving DecidableEq, Repr

/-- The build of `State.reset`. DESIGN CHOICE (log 1): the spec gives no values. N and R are those of
95_test_vectors.md's standing build, the codes and the clock those of its illustrative instance L2-12, and the
three addresses are chosen aligned and apart. unsafe: a claim that leaned on these numbers would be about this
build alone, so no statement does. -/
def Config.build : Build :=
  { n := 3, r := 2, code1 := 61, code0 := 29, periodTicks := 90, timerHz := 72000000,
    fbBase := 0x1000, ccrAddr := 0x40, mmioBase := 0 }

/-- `RESET_CODE`, the compare value of every reset-region slot, fixed at 0 (R11, 92_eei_decisions.md D12). -/
def Config.resetCode : Half := 0

/-- FREE VALUE (log 2): the step that is taken next where no schedule is placed. "Any enabled step may be taken
next" (R6), so nothing is known of it: no body, applied to the counter `draws` of State. -/
opaque Config.freeEvent : Nat → Machine.Event

end Sys2Proof
end

