-- ==== Sys2Proof/Machine/State.lean ====
section
/-! DEFINITION. The state of the block as 10_state.md gives it, the reasons a step can stop, and the state after reset. -/

namespace Sys2Proof.Machine

/-- One entry of WAVE: the compare value of a period, or the marker `RST` (R35). -/
inductive WaveEntry where
  | value (v : Half)
  | rst
deriving DecidableEq, Repr

/-- What the host bus answers to the host's latest access of the window (R39, R60, R242). -/
inductive BusReply where
  /-- no access has been made yet. -/
  | none
  /-- a read returned this register value. -/
  | data (v : Word)
  /-- a write was taken (or ignored, as R62 says for read-only registers). -/
  | done
  /-- `raise BusError` (R60, R188). -/
  | busError
deriving DecidableEq, Repr

/-- Why the machine stops with a fault. -/
inductive Fault where
  /-- UPDATE would read a frame-buffer element `k >= M`, which does not exist. Raised by `updateStep`. safe: R52 calls
  such an access unreachable and refusing it the safe reading. -/
  | frameBufferIndex
deriving DecidableEq, Repr

/-- Why the machine has no meaning for what is asked of it. -/
inductive Refusal where
  /-- An instruction that has no meaning yet; raised only by an arm of `exec` (none now). safe. -/
  | notModelled (mnemonic : String)
  /-- The build breaks a constraint of R8 to R14 or R236. Raised by `step`. safe: "The model has no meaning for such a
  build" (93_implementation_defined.md U9). -/
  | invalidBuild
  /-- A host access to the frame buffer, to which the host has no path (R51; 93_implementation_defined.md U8 says
  refuse). Raised by `hostAccess`. safe. -/
  | hostFrameBuffer
  /-- A host access to the compare register at CCR_ADDR, which has no move in the model (R242). Raised by
  `hostAccess`. safe. -/
  | hostCompareRegister
  /-- A host access to an address that is none of the block's (R50, R64). Raised by `hostAccess`. safe. -/
  | outsideBlock
deriving DecidableEq, Repr

/-- Everything 10_state.md gives the block, the build parameters, and the model's own bookkeeping of the run. -/
structure State where
  /-- The build parameters (R8 to R14): configuration, which no step changes (R49). -/
  build : Build
  /-- The frame buffer FB in its byte view (R22, R56): the bytes that differ from their reset contents, by rising address. -/
  mem : List Host.Cell
  /-- BUSY (R23). -/
  busy : Bool
  /-- TC_PENDING (R24). -/
  tcPending : Bool
  /-- FAULT (R25). -/
  fault : Bool
  /-- RESP (R26). -/
  resp : Word
  /-- DMA_EN (R27). -/
  dmaEn : Bool
  /-- DMA_PTR, DMA_CNT_W = 16 bits (R13, R28). -/
  dmaPtr : Half
  /-- DMA_CNT, DMA_CNT_W = 16 bits (R13, R29). -/
  dmaCnt : Half
  /-- TMR_EN (R30). -/
  tmrEn : Bool
  /-- TMR_CNT (R31). -/
  tmrCnt : Half
  /-- CCR (R32). -/
  ccr : Half
  /-- CMD_LO (R33). -/
  cmdLo : Word
  /-- WAVE, oldest entry first (R35). -/
  wave : List WaveEntry
  /-- The model's own: the response words the HOST has received, oldest first (R7; log 4). -/
  responses : List Word
  /-- The model's own: the answer to the host's latest bus access (log 5). -/
  busReply : BusReply
  /-- The model's own: the schedule, the steps placed to be taken next (log 2). -/
  agenda : List Event
  /-- The model's own: how many free choices of the schedule have been used (log 2). -/
  draws : Nat
deriving DecidableEq, Repr

/-- The power-on state of a build: the values of R48, with WAVE empty (R220). The frame buffer lists nothing, so every
slot reads its reset contents (`Memory.resetByte`). -/
def State.powerOn (b : Build) : State :=
  { build := b, mem := [], busy := false, tcPending := false, fault := false, resp := 0,
    dmaEn := false, dmaPtr := 0, dmaCnt := 0, tmrEn := false, tmrCnt := 0, ccr := 0, cmdLo := 0, wave := [],
    responses := [], busReply := .none, agenda := [], draws := 0 }

/-- The machine right after power-on, for the build of `Config.build` (log 1). -/
def State.reset : State := State.powerOn Config.build

end Sys2Proof.Machine
end

