-- ==== Sys2Proof/Machine/Ops.lean ====
section
/-! DEFINITION. The build's derived figures and constraints, and the named operations over the frame-buffer memory. The
block takes no trap (R180, R193, R194), so there is no exception entry and no return among them; how a command ends is
`finishIssue` in Flags.lean. -/

namespace Sys2Proof

/-- `24 * N`, the number of pixel-region slots (R53). -/
def Build.pixelSlots (b : Build) : Nat := 24 * b.n

/-- `M = 24 * (N + R)`, the frame length in elements and the DMA element count (R13). -/
def Build.frameLen (b : Build) : Nat := 24 * (b.n + b.r)

/-- The parameter constraints of R8 to R14. -/
def Build.parametersOk (b : Build) : Bool :=
  1 ≤ b.n && b.n ≤ 65535 && 1 ≤ b.r &&
  0 < b.code0.toNat && b.code0.toNat < b.code1.toNat && b.code1.toNat < b.periodTicks &&
  2 ≤ b.periodTicks && b.periodTicks ≤ 65536 && b.frameLen ≤ 65535 &&
  b.fbBase % 4 == 0 && b.ccrAddr % 4 == 0 && b.mmioBase % 64 == 0

/-- The reset-interval constraint `(24R - 1) * T_BIT >= 50 µs` with `T_BIT = PERIOD_TICKS / F_TIMER_HZ`, multiplied out
(R236). DESIGN CHOICE (log 17): the spec gives F_TIMER_HZ no lower bound, and at F_TIMER_HZ = 0 `T_BIT` has no value; the
multiplied-out form then holds for every R, so such a build is accepted. safe: no step reads F_TIMER_HZ. -/
def Build.latchOk (b : Build) : Bool :=
  50 * b.timerHz ≤ (24 * b.r - 1) * b.periodTicks * 1000000

/-- A build the model has a meaning for (R8 to R14, R236; 93_implementation_defined.md U9). -/
def Build.valid (b : Build) : Bool := b.parametersOk && b.latchOk

end Sys2Proof

namespace Sys2Proof.Machine

/-- The byte address of frame-buffer element `k`: `FB_BASE + 4*k` (R52). -/
def slotAddr (b : Build) (k : Nat) : Nat := b.fbBase + 4 * k

/-- The reset contents of element `k`: `zext_32(CODE_0)` in the pixel region, `zext_32(RESET_CODE)` in the reset
region (R22, R48). -/
def resetElem (b : Build) (k : Nat) : Word :=
  if k < b.pixelSlots then b.code0.setWidth 32 else Config.resetCode.setWidth 32

/-- Byte `j` of a little-endian 32-bit element (R56). -/
def byteOf (v : Word) (j : Nat) : Byte := v.extractLsb' (8 * j) 8

/-- The addresses of the frame-buffer space (R50, R51). -/
def Memory.inSpace (b : Build) (a : Nat) : Bool := b.fbBase ≤ a && a < b.fbBase + 4 * b.frameLen

/-- What an unlisted address reads as: the reset contents of its byte (R22, R56). -/
def Memory.resetByte (b : Build) (a : Nat) : Byte :=
  byteOf (resetElem b ((a - b.fbBase) / 4)) ((a - b.fbBase) % 4)

/-- The listed byte at an address, if any. -/
def Memory.lookup : List Host.Cell → Nat → Option Byte
  | [], _ => none
  | c :: cs, a => if c.1 = a then some c.2 else Memory.lookup cs a

/-- The list without an address. -/
def Memory.erase : List Host.Cell → Nat → List Host.Cell
  | [], _ => []
  | c :: cs, a => if c.1 = a then Memory.erase cs a else c :: Memory.erase cs a

/-- The list with a byte put before the first higher address. -/
def Memory.insert : List Host.Cell → Nat → Byte → List Host.Cell
  | [], a, v => [(a, v)]
  | c :: cs, a, v => if a < c.1 then (a, v) :: c :: cs else c :: Memory.insert cs a v

/-- One byte of memory: the listed one, else the reset contents. -/
def Memory.read (b : Build) (m : List Host.Cell) (a : Nat) : Byte :=
  match Memory.lookup m a with
  | some v => v
  | none => Memory.resetByte b a

/-- Writing one byte; writing the reset contents removes the entry, so that equal memories are equal lists. -/
def Memory.write (b : Build) (m : List Host.Cell) (a : Nat) (v : Byte) : List Host.Cell :=
  if v = Memory.resetByte b a then Memory.erase m a else Memory.insert (Memory.erase m a) a v

/-- Every address of a list is above a bound, each above the one before it. -/
def Memory.rising : Nat → List Host.Cell → Bool
  | _, [] => true
  | lo, c :: cs => lo ≤ c.1 && Memory.rising (c.1 + 1) cs

/-- The canonical form: addresses strictly rising, each in the frame-buffer space, no entry equal to the reset contents. -/
def Memory.wf (b : Build) (m : List Host.Cell) : Bool :=
  Memory.rising 0 m && m.all (fun c => Memory.inSpace b c.1 && c.2 != Memory.resetByte b c.1)

/-- One byte of the state's memory. -/
def readByte (s : State) (a : Nat) : Byte := Memory.read s.build s.mem a

/-- `MemRead(a, 4)`: the little-endian 32-bit value at an address (R52, R56). -/
def memRead32 (s : State) (a : Nat) : Word :=
  readByte s (a + 3) ++ readByte s (a + 2) ++ readByte s (a + 1) ++ readByte s a

/-- `MemWrite(a, 4, v)`: the four bytes of a value, little-endian (R52, R56). -/
def memWrite32 (s : State) (a : Nat) (v : Word) : State :=
  let m0 := Memory.write s.build s.mem a (byteOf v 0)
  let m1 := Memory.write s.build m0 (a + 1) (byteOf v 1)
  let m2 := Memory.write s.build m1 (a + 2) (byteOf v 2)
  let m3 := Memory.write s.build m2 (a + 3) (byteOf v 3)
  { s with mem := m3 }

/-- `FB[k]` (R16, R52). Every caller has `k < M`: see `updateStep`. -/
def readElem (s : State) (k : Nat) : Word := memRead32 s (slotAddr s.build k)

/-- `FB[k] <- v` (R16, R52). Every caller has `k < M`: SET_PIXEL only `k < 24N`, RESET only `k < M`. -/
def writeElem (s : State) (k : Nat) (v : Word) : State := memWrite32 s (slotAddr s.build k) v

/-- `for k in start .. start + count - 1: FB[k] <- f k`, in increasing order (R16). -/
def fillElems (f : Nat → Word) (start : Nat) : Nat → State → State
  | 0, s => s
  | count + 1, s => fillElems f (start + 1) count (writeElem s start (f start))

end Sys2Proof.Machine
end

