-- ==== Sys2Proof/Machine/Flags.lean ====
section
/-! DEFINITION. Status values, the response word, the STATUS register's word, how an Issue step ends, and the phases of
the controller. -/

namespace Sys2Proof.Machine

/-- The four status values a command ends with (R88). -/
inductive Status where
  | ok
  | invalidParameter
  | deviceBusy
  | illegalCommand
deriving DecidableEq, Repr

/-- The 2-bit value of a status (R88). -/
def Status.bits : Status → BitVec 2
  | .ok => 0
  | .invalidParameter => 1
  | .deviceBusy => 2
  | .illegalCommand => 3

/-- `Resp(st, busy, fault) = zext_32({fault, busy, 0b000000, st[1:0]})` (R89). -/
def respWord (st : Status) (busy fault : Bool) : Word :=
  (BitVec.ofBool fault ++ BitVec.ofBool busy ++ (0 : BitVec 6) ++ st.bits).setWidth 32

/-- The STATUS register: BUSY in bit 0, FAULT in bit 1, the rest 0 (R36). -/
def statusWord (s : State) : Word := (BitVec.ofBool s.fault ++ BitVec.ofBool s.busy).setWidth 32

/-- `RESP <- Resp(st, BUSY, FAULT)`, with BUSY and FAULT as the command left them, and the word given to the HOST (R80). -/
def respond (st : Status) (s : State) : State :=
  { s with resp := respWord st s.busy s.fault, responses := s.responses ++ [respWord st s.busy s.fault] }

/-- The end of an Issue step: a command's status and state, then its response (R80). No command traps (R180). -/
def finishIssue (r : Status × State) : Host.Outcome State Fault Refusal := .next (respond r.1 r.2)

/-- Idle: BUSY = 0, and with it everything R45 lists is 0. -/
def State.isIdle (s : State) : Bool := !s.busy && !s.fault && !s.tcPending && !s.dmaEn && !s.tmrEn

/-- Busy (transferring) (R46). -/
def State.isTransferring (s : State) : Bool :=
  s.busy && !s.fault && !s.tcPending && s.dmaEn && s.tmrEn &&
  s.dmaPtr.toNat + s.dmaCnt.toNat == s.build.frameLen && 1 ≤ s.dmaCnt.toNat

/-- Busy (completion pending) (R46). -/
def State.isCompletionPending (s : State) : Bool :=
  s.busy && !s.fault && s.tcPending && !s.dmaEn && s.tmrEn &&
  s.dmaPtr.toNat == s.build.frameLen && s.dmaCnt == 0

/-- Busy (faulted) (R46). -/
def State.isFaulted (s : State) : Bool := s.busy && s.fault && !s.tcPending && !s.dmaEn && !s.tmrEn

end Sys2Proof.Machine
end

