-- ==== Sys2Proof/Machine/Operands.lean ====
section
/-! DEFINITION. The encoder's pure functions: scaling, packing and the code of a bit (R110 to R115). -/

namespace Sys2Proof.Machine

/-- `Scale(c, p) = (c * p) div 100`, on natural numbers (R110). -/
def scale (c p : Nat) : Nat := c * p / 100

/-- `Pack(r', g', b') = (g' << 16) | (r' << 8) | b'`, 24 bits (R112). -/
def pack (r g b : Nat) : BitVec 24 := BitVec.ofNat 24 ((g <<< 16) ||| (r <<< 8) ||| b)

/-- `Code(x)`: `zext_32(CODE_1)` for a 1, `zext_32(CODE_0)` for a 0 (R113). -/
def code (b : Build) (x : Bool) : Word := if x then b.code1.setWidth 32 else b.code0.setWidth 32

/-- The packed word of a colour at a brightness, each channel scaled on its own (R112, R115, R117). -/
def packedWord (bright red green blue : Byte) : BitVec 24 :=
  pack (scale red.toNat bright.toNat) (scale green.toNat bright.toNat) (scale blue.toNat bright.toNat)

/-- What slot `24*i + j` of a pixel gets: `Code(w[23 - j])`, most significant bit first (R114). -/
def slotCode (b : Build) (w : BitVec 24) (j : Nat) : Word := code b (w.getLsbD (23 - j))

/-- `Dec`: 1 for `zext_32(CODE_1)`, 0 for any other value (R122 uses it on the two codes only). -/
def decodeSlot (b : Build) (v : Word) : Bool := v == b.code1.setWidth 32

/-- The 24-bit word `{Dec(FB[24i]), ..., Dec(FB[24i+23])}` of a pixel, slot `24i` its most significant bit (R122). -/
def pixelWord (s : State) (i : Nat) : BitVec 24 :=
  BitVec.ofFnBE (fun j : Fin 24 => decodeSlot s.build (readElem s (24 * i + j.val)))

end Sys2Proof.Machine
end

