-- ==== Sys2Proof/Machine/Encoder.lean ====
section
/-! DEFINITION. The Frame Buffer Encoder: SET_PIXEL and the internal ENCODE_RESET (R116 to R121). -/

namespace Sys2Proof.Machine

/-- `for j in 0 .. 23: FB[24*i + j] <- Code(w[23 - j])` (R114, R117). -/
def writePixel (i : Nat) (w : BitVec 24) (s : State) : State :=
  fillElems (fun k => slotCode s.build w (k - 24 * i)) (24 * i) 24 s

/-- SetPixel of R117, with the three checks in the order of R116. -/
def setPixel (index : BitVec 16) (bright red green blue : Byte) (s : State) : Status × State :=
  if s.build.n ≤ index.toNat then (.invalidParameter, s)
  else if 100 < bright.toNat then (.invalidParameter, s)
  else if s.busy then (.deviceBusy, s)
  else (.ok, writePixel index.toNat (packedWord bright red green blue) s)

/-- SET_PIXEL as a whole Issue step (R80, R117). -/
def execSetPixel (index : BitVec 16) (bright red green blue : Byte) (s : State) : Host.Outcome State Fault Refusal :=
  finishIssue (setPixel index bright red green blue s)

/-- EncodeReset: `for k in 24*N .. M - 1: FB[k] <- zext_32(RESET_CODE)` (R120). -/
def encodeReset (s : State) : State :=
  fillElems (fun _ => Config.resetCode.setWidth 32) s.build.pixelSlots (s.build.frameLen - s.build.pixelSlots) s

end Sys2Proof.Machine
end

