-- ==== Sys2Proof/Machine/Transmit.lean ====
section
/-! DEFINITION. The Transmit Controller: SUBMIT_FRAME, QUERY_BUSY, and the steps UPDATE, IDLE_PERIOD and COMPLETE (R140 to R153). -/

namespace Sys2Proof.Machine

/-- The arming of a frame, in program order: disable the channel, set its address and count, enable it, set BUSY, start
the timer (R140, R141). -/
def armFrame (s : State) : State :=
  let s := { s with dmaEn := false }
  let s := { s with dmaPtr := 0, dmaCnt := BitVec.ofNat 16 s.build.frameLen }
  { s with dmaEn := true, busy := true, tmrCnt := 0, tmrEn := true }

/-- SubmitFrame of R140; while BUSY = 1 it does not re-arm (R142). -/
def submitFrame (s : State) : Status × State :=
  if s.busy then (.deviceBusy, s) else (.ok, armFrame s)

/-- SUBMIT_FRAME as a whole Issue step (R80, R140). -/
def execSubmitFrame (s : State) : Host.Outcome State Fault Refusal := finishIssue (submitFrame s)

/-- QUERY_BUSY as a whole Issue step: status OK in every state, no change (R143). -/
def execQueryBusy (s : State) : Host.Outcome State Fault Refusal := finishIssue (.ok, s)

/-- UPDATE is enabled (R146). -/
def updateEnabled (s : State) : Bool := s.tmrEn && s.dmaEn && 1 ≤ s.dmaCnt.toNat

/-- IDLE_PERIOD is enabled (R149). -/
def idlePeriodEnabled (s : State) : Bool := s.tmrEn && !s.dmaEn

/-- What the compare register keeps of a 32-bit write: bits 15:0 (R55). -/
def compareBits (v : Word) : Half := v.setWidth 16

/-- Update of R146 once its element exists: the compare register and WAVE take bits 15:0 of `FB[DMA_PTR]`, the pointer
goes up, the count goes down, and at count 0 the channel stops and completion is pending. -/
def transferElement (s : State) : State :=
  let v := compareBits (readElem s s.dmaPtr.toNat)
  let cnt := s.dmaCnt - 1
  { s with
    ccr := v
    wave := s.wave ++ [.value v]
    dmaPtr := s.dmaPtr + 1
    dmaCnt := cnt
    dmaEn := if cnt = 0 then false else s.dmaEn
    tcPending := if cnt = 0 then true else s.tcPending }

/-- UPDATE (R146). An element outside the frame buffer does not exist; no reachable state asks for one (R52). -/
def updateStep (s : State) : Host.Outcome State Fault Refusal :=
  if s.dmaPtr.toNat < s.build.frameLen then .next (transferElement s) else .fault .frameBufferIndex

/-- IDLE_PERIOD (R149): the compare value left by the last UPDATE is driven again. -/
def idlePeriod (s : State) : State := { s with wave := s.wave ++ [.value s.ccr] }

/-- COMPLETE (R151): the DMA-complete handler. -/
def completeFrame (s : State) : State :=
  { s with tcPending := false, tmrEn := false, tmrCnt := 0, busy := false }

end Sys2Proof.Machine
end

