-- ==== Sys2Proof/Machine/Dispatch.lean ====
section
/-! DEFINITION. The dispatch of a decoded command to its meaning (R80 `Execute`, with the response of R80). -/

namespace Sys2Proof.Machine

def exec (i : Instr) (s : State) : Host.Outcome State Fault Refusal :=
  match i with
  | .setPixel index bright red green blue => Sys2Proof.Machine.execSetPixel index bright red green blue s
  | .submitFrame => Sys2Proof.Machine.execSubmitFrame s
  | .queryBusy => Sys2Proof.Machine.execQueryBusy s

end Sys2Proof.Machine
end

