-- ==== Sys2Proof/Machine/Pin.lean ====
section
/-! DEFINITION. The output pin and the tick level inside a period (R34, R154, R157, R158), a refinement no step depends on. -/

namespace Sys2Proof.Machine

/-- `PIN`: high while the timer runs and `TMR_CNT < CCR`, low while the timer is stopped (R34, R154, R158). -/
def State.pin (s : State) : Bool := s.tmrEn && s.tmrCnt.toNat < s.ccr.toNat

/-- The pin at tick `t` of a period whose WAVE entry is `v`: high for `t < min(v, PERIOD_TICKS)` (R157). -/
def pinAtTick (b : Build) (v : Half) (t : Nat) : Bool := t < min v.toNat b.periodTicks

/-- The number of ticks of such a period with the pin high, counted tick by tick (R157). -/
def highTicks (b : Build) (v : Half) : Nat := (List.range b.periodTicks).countP (pinAtTick b v)

/-- The timer's update event: one step of the TIMER/DMA agent, UPDATE where the channel has an element to move and
IDLE_PERIOD where it is disabled (R145). -/
def timerEvent (s : State) : Host.Outcome State Fault Refusal :=
  if updateEnabled s then updateStep s
  else if idlePeriodEnabled s then .next (idlePeriod s)
  else .next s

/-- The update event of the timer's start is still to come: the timer and the channel run, and no element of the frame
has been read. SUBMIT_FRAME alone puts DMA_PTR to 0 with the channel enabled, and each UPDATE raises it (R140, R146,
R148; DEDUCED, log 11). -/
def startEventDue (s : State) : Bool := s.tmrEn && s.dmaEn && s.dmaPtr == 0

/-- The event "at once" when SUBMIT_FRAME starts the timer: it takes no tick, and its UPDATE loads `FB[0]` for the period
that is starting (R145, R148). -/
def takeStartEvent (s : State) : Host.Outcome State Fault Refusal :=
  if startEventDue s then timerEvent s else .next s

/-- TMR_CNT counts `0 .. PERIOD_TICKS - 1` while the timer runs, then wraps to 0 with an update event (R145, R154). -/
def countTick (s : State) : Host.Outcome State Fault Refusal :=
  if s.tmrEn then
    if s.tmrCnt.toNat + 1 < s.build.periodTicks then .next { s with tmrCnt := s.tmrCnt + 1 }
    else timerEvent { s with tmrCnt := 0 }
  else .next s

/-- One tick of the timer clock, after the start event if that is still to come (R145, R148, R154). -/
def timerTick (s : State) : Host.Outcome State Fault Refusal :=
  match takeStartEvent s with
  | .next t => countTick t
  | .fault r => .fault r
  | .refused r => .refused r

/-- The state `k` ticks of the timer clock on; the start event comes before any tick, so also at `k = 0` (R148). -/
def timerTicks : Nat → State → Host.Outcome State Fault Refusal
  | 0, s => takeStartEvent s
  | k + 1, s =>
    match timerTicks k s with
    | .next t => countTick t
    | .fault r => .fault r
    | .refused r => .refused r

/-- The timer ticks a frame takes from its first UPDATE to the end of its last period: `M * PERIOD_TICKS` (R237). -/
def frameTicks (b : Build) : Nat := b.frameLen * b.periodTicks

end Sys2Proof.Machine
end

