-- ==== Sys2Proof/Machine/Platform.lean ====
section
/-! DEFINITION. The environment's step DMA_ERROR (R186) and the step RESET (R220). -/

namespace Sys2Proof.Machine

/-- DmaError of R186. TC_PENDING "stays 0" there and is "cleared by COMPLETE, DMA_ERROR or RESET" in R42; both hold of
a step that leaves it 0 (log 6). -/
def dmaError (s : State) : State :=
  { s with fault := true, dmaEn := false, tmrEn := false, tmrCnt := 0, tcPending := false }

/-- The registers RESET clears (R220). -/
def clearRegisters (s : State) : State :=
  { s with
    busy := false, tcPending := false, fault := false, resp := 0
    dmaEn := false, dmaPtr := 0, dmaCnt := 0
    tmrEn := false, tmrCnt := 0, ccr := 0
    cmdLo := 0 }

/-- `for k in 0 .. 24*N - 1: FB[k] <- zext_32(CODE_0)` (R220). -/
def clearPixels (s : State) : State :=
  fillElems (fun _ => s.build.code0.setWidth 32) 0 s.build.pixelSlots s

/-- Reset of R220: registers, pixel region, reset region, then `RST` in WAVE. The two observation fields of the host
side stay, as WAVE does (log 4, log 5). -/
def resetStep (s : State) : State :=
  let s := encodeReset (clearPixels (clearRegisters s))
  { s with wave := s.wave ++ [.rst] }

end Sys2Proof.Machine
end

