-- ==== Sys2Proof/Machine/Agents.lean ====
section
/-! DEFINITION. The agents' steps (R6): Issue, the host's accesses of the register window, and the choice of the next step. -/

namespace Sys2Proof.Machine

/-- Issue of R80: decode the word, execute it, respond; an illegal word changes nothing but RESP (R87, R181). -/
def issue (cmd : Command) (s : State) : Host.Outcome State Fault Refusal :=
  match decode cmd with
  | .command i => exec i s
  | .illegal _ => finishIssue (.illegalCommand, s)

/-- The registers of the host window (R54). -/
inductive WindowReg where
  | cmdLo
  | cmdHi
  | resp
  | status
  | cfgN
  | cfgR
  | cfgCode1
  | cfgCode0
  | cfgResetCode
  | cfgPeriod
  | reserved
deriving DecidableEq, Repr

/-- The register at a 4-byte aligned offset of the window (R36 to R41, R54). -/
def windowReg (off : Nat) : WindowReg :=
  if off = 0x00 then .cmdLo
  else if off = 0x04 then .cmdHi
  else if off = 0x08 then .resp
  else if off = 0x0C then .status
  else if off = 0x10 then .cfgN
  else if off = 0x14 then .cfgR
  else if off = 0x18 then .cfgCode1
  else if off = 0x1C then .cfgCode0
  else if off = 0x20 then .cfgResetCode
  else if off = 0x24 then .cfgPeriod
  else .reserved

/-- What a read of a window register returns (R36 to R41). -/
def windowRead (s : State) : WindowReg → Word
  | .cmdLo => s.cmdLo
  | .cmdHi => 0
  | .resp => s.resp
  | .status => statusWord s
  | .cfgN => BitVec.ofNat 32 s.build.n
  | .cfgR => BitVec.ofNat 32 s.build.r
  | .cfgCode1 => s.build.code1.setWidth 32
  | .cfgCode0 => s.build.code0.setWidth 32
  | .cfgResetCode => Config.resetCode.setWidth 32
  | .cfgPeriod => BitVec.ofNat 32 s.build.periodTicks
  | .reserved => 0

/-- A write of a window register: CMD_LO is stored (R38), a CMD_HI write issues `{v, CMD_LO}` (R39, R92), every other
write is ignored (R62). -/
def windowWrite (r : WindowReg) (v : Word) (s : State) : Host.Outcome State Fault Refusal :=
  match r with
  | .cmdLo => .next { s with cmdLo := v }
  | .cmdHi => issue (v ++ s.cmdLo) s
  | .resp | .status | .cfgN | .cfgR | .cfgCode1 | .cfgCode0 | .cfgResetCode | .cfgPeriod | .reserved => .next s

/-- The bus's answer to the host. -/
def reply (r : BusReply) (s : State) : State := { s with busReply := r }

/-- The bus's answer put on an outcome that is a next state. -/
def replyOn (r : BusReply) : Host.Outcome State Fault Refusal → Host.Outcome State Fault Refusal
  | .next s => .next (reply r s)
  | .fault f => .fault f
  | .refused f => .refused f

/-- Some byte of an access lies in the `size` bytes at `base`. -/
def touches (base size addr bytes : Nat) : Bool := addr < base + size && base < addr + bytes

/-- An access the window defines: 32 bits at a 4-byte aligned offset (R59). -/
def aligned32 (b : Build) (addr bytes : Nat) : Bool :=
  bytes == 4 && b.mmioBase ≤ addr && (addr - b.mmioBase) % 4 == 0

/-- An access of the window: R59's accesses act on their register, any other gets BusError and changes no block state
(R60, R188). -/
def windowAccess (a : BusAccess) (s : State) : Host.Outcome State Fault Refusal :=
  match a with
  | .read addr bytes =>
    if aligned32 s.build addr bytes then
      .next (reply (.data (windowRead s (windowReg (addr - s.build.mmioBase)))) s)
    else .next (reply .busError s)
  | .write addr bytes v =>
    if aligned32 s.build addr bytes then
      replyOn .done (windowWrite (windowReg (addr - s.build.mmioBase)) v s)
    else .next (reply .busError s)

/-- The byte address of an access. -/
def accessAddr : BusAccess → Nat
  | .read addr _ => addr
  | .write addr _ _ => addr

/-- The width of an access in bytes. -/
def accessBytes : BusAccess → Nat
  | .read _ bytes => bytes
  | .write _ bytes _ => bytes

/-- A host access on the bus. The window answers its own addresses (R54); the host has no path to the frame buffer (R51)
and no move on the compare register (R242); any other address is not the block's (R64). -/
def hostAccess (a : BusAccess) (s : State) : Host.Outcome State Fault Refusal :=
  if touches s.build.mmioBase 64 (accessAddr a) (accessBytes a) then windowAccess a s
  else if touches s.build.fbBase (4 * s.build.frameLen) (accessAddr a) (accessBytes a) then .refused .hostFrameBuffer
  else if touches s.build.ccrAddr 4 (accessAddr a) (accessBytes a) then .refused .hostCompareRegister
  else .refused .outsideBlock

/-- A step is enabled (R146, R149, R151, R186; Issue, a host access and RESET always are, R192). -/
def enabled (e : Event) (s : State) : Bool :=
  match e with
  | .issue _ => true
  | .access _ => true
  | .update => updateEnabled s
  | .idlePeriod => idlePeriodEnabled s
  | .complete => s.tcPending
  | .dmaError => s.dmaEn
  | .reset => true

/-- The effect of an enabled step. -/
def perform (e : Event) (s : State) : Host.Outcome State Fault Refusal :=
  match e with
  | .issue cmd => issue cmd s
  | .access a => hostAccess a s
  | .update => updateStep s
  | .idlePeriod => .next (idlePeriod s)
  | .complete => .next (completeFrame s)
  | .dmaError => .next (dmaError s)
  | .reset => .next (resetStep s)

/-- One scheduled event: an event that is not enabled is no step of the block and changes nothing (R192; log 3). -/
def takeEvent (e : Event) (s : State) : Host.Outcome State Fault Refusal :=
  if enabled e s then perform e s else .next s

/-- The next event of the schedule and the state that has used it: the first placed event, else a free choice (R6; log 2). -/
def nextEvent (s : State) : Event × State :=
  match s.agenda with
  | e :: rest => (e, { s with agenda := rest })
  | [] => (Config.freeEvent s.draws, { s with draws := s.draws + 1 })

/-- The command word with which a command read from the opcode table is issued: its bits above `nbits` are 0. -/
def tableWord (nbits w : Nat) : Command := BitVec.ofNat 64 (w % 2 ^ nbits)

end Sys2Proof.Machine
end

