-- ==== Sys2Proof/Machine/Step.lean ====
section
/-! DEFINITION. One step of the machine: the schedule's next event, taken whole (R6, R17, R66). -/

namespace Sys2Proof.Machine

/-- One step. A build that breaks its constraints has no meaning (93_implementation_defined.md U9). -/
def step (s : State) : Host.Outcome State Fault Refusal :=
  if s.build.valid then takeEvent (nextEvent s).1 (nextEvent s).2 else .refused .invalidBuild

/-- The state with a command word placed as the next event of the schedule: the block fetches nothing, a command comes
from the host's command port (R72, R80; log 7). -/
def State.withFetchWord (s : State) (nbits w : Nat) : State :=
  { s with agenda := .issue (tableWord nbits w) :: s.agenda }

end Sys2Proof.Machine
end

