-- ==== Sys2Proof/Safety.lean ====
section
/-! DEFINITION. What the claims are about: the invariants of 10_state.md, runs over a schedule, fairness, and the end of a run. -/

namespace Sys2Proof.Machine

/-- The controller is in one of its four phases (R45, R46). -/
def State.phaseInv (s : State) : Bool := s.isIdle || s.isTransferring || s.isCompletionPending || s.isFaulted

/-- The ranges of the counters: DMA_PTR and DMA_CNT `0 .. M` (R28, R29), TMR_CNT `0 .. PERIOD_TICKS - 1` (R31). -/
def State.rangeInv (s : State) : Bool :=
  s.dmaPtr.toNat ≤ s.build.frameLen && s.dmaCnt.toNat ≤ s.build.frameLen && s.tmrCnt.toNat < s.build.periodTicks

/-- The contents of the frame buffer: a code in every pixel slot, `zext_32(RESET_CODE)` in every reset slot (R44). -/
def State.frameBufferInv (s : State) : Prop :=
  (∀ k, k < s.build.pixelSlots →
    readElem s k = s.build.code0.setWidth 32 ∨ readElem s k = s.build.code1.setWidth 32) ∧
  (∀ k, s.build.pixelSlots ≤ k → k < s.build.frameLen → readElem s k = Config.resetCode.setWidth 32)

/-- The frame buffer's bytes are in their canonical form (log 8). -/
def State.memoryInv (s : State) : Bool := Memory.wf s.build s.mem

/-- A run over a list of scheduled events: each taken in turn, stopping at the first fault or refusal. -/
def runEvents : List Event → State → Host.Outcome State Fault Refusal
  | [], s => .next s
  | e :: es, s =>
    match takeEvent e s with
    | .next t => runEvents es t
    | .fault r => .fault r
    | .refused r => .refused r

/-- The state an event leaves; a move the model has no meaning for is no move of the block and leaves it as it is. -/
def afterEvent (e : Event) (s : State) : State :=
  match takeEvent e s with
  | .next t => t
  | .fault _ => s
  | .refused _ => s

/-- The state after the first `n` events of an infinite schedule. -/
def stateAt (σ : Nat → Event) (s : State) : Nat → State
  | 0 => s
  | n + 1 => afterEvent (σ n) (stateAt σ s n)

/-- A TIMER/DMA step is taken: an enabled UPDATE or IDLE_PERIOD (R145). -/
def isTimerStep (e : Event) (s : State) : Bool :=
  (e == .update && updateEnabled s) || (e == .idlePeriod && idlePeriodEnabled s)

/-- Fairness (a): while TMR_EN = 1, a TIMER/DMA step is eventually taken (R240). -/
def TimerFair (σ : Nat → Event) (s : State) : Prop :=
  ∀ n, (stateAt σ s n).tmrEn = true →
    ∃ m, n ≤ m ∧ ((stateAt σ s m).tmrEn = false ∨ isTimerStep (σ m) (stateAt σ s m) = true)

/-- Fairness (b): while TC_PENDING = 1, COMPLETE is eventually taken (R240). -/
def CompletionFair (σ : Nat → Event) (s : State) : Prop :=
  ∀ n, (stateAt σ s n).tcPending = true →
    ∃ m, n ≤ m ∧ ((stateAt σ s m).tcPending = false ∨ σ m = .complete)

/-- A step of the HOST. -/
def isHostEvent : Event → Bool
  | .issue _ => true
  | .access _ => true
  | .update => false
  | .idlePeriod => false
  | .complete => false
  | .dmaError => false
  | .reset => false

/-- The event issues a command: an Issue, or a write of CMD_HI in a build's window (R80, R92). A read, or a write of
another register, issues none. -/
def issuesCommand (b : Build) : Event → Bool
  | .issue _ => true
  | .access (.write addr bytes _) => aligned32 b addr bytes && windowReg (addr - b.mmioBase) == .cmdHi
  | .access (.read _ _) => false
  | .update => false
  | .idlePeriod => false
  | .complete => false
  | .dmaError => false
  | .reset => false

/-- The part of R241's end that the block shows: BUSY = 0 and FAULT = 0. -/
def State.quiet (s : State) : Bool := !s.busy && !s.fault

/-- After its first `n` events a run has issued its last command, and BUSY = 0 and FAULT = 0 (R241). The host program
of a run is the commands its schedule issues (log 18). -/
def AtEnd (σ : Nat → Event) (s : State) (n : Nat) : Prop :=
  (∀ m, n ≤ m → issuesCommand s.build (σ m) = false) ∧ (stateAt σ s n).quiet = true

/-- A run ends after `n` events: at the first such state (R241). -/
def RunEndsAt (σ : Nat → Event) (s : State) (n : Nat) : Prop :=
  AtEnd σ s n ∧ ∀ m, m < n → ¬ AtEnd σ s m

/-- The end state of a run over a finite schedule, its first state at an end (R241); none where the run has no such
state, or stops first. -/
def endState : List Event → State → Option State
  | [], s => if s.quiet then some s else none
  | e :: es, s =>
    if (e :: es).all (fun e' => !issuesCommand s.build e') && s.quiet then some s
    else match takeEvent e s with
      | .next t => endState es t
      | .fault _ => none
      | .refused _ => none

/-- The schedule that `step` follows from a state: the placed events, then the free choices (log 2). -/
def scheduleOf (s : State) (n : Nat) : Event :=
  s.agenda.getD n (Config.freeEvent (s.draws + (n - s.agenda.length)))

/-- The compare values of a whole frame: bits 15:0 of every element, in order (R156). -/
def frameValues (s : State) : List WaveEntry :=
  (List.range s.build.frameLen).map (fun k => .value (compareBits (readElem s k)))

/-- The eleven response values that can occur (R89). -/
def elevenResponses : List Word :=
  [0x000, 0x100, 0x300, 0x001, 0x101, 0x301, 0x102, 0x302, 0x003, 0x103, 0x303]

end Sys2Proof.Machine
end

