-- ==== Sys2Proof/Certificates/Slice0/Obligations.lean ====
section
/-! DEFINITION. The statements about the block, one per rule or group of rules of spec/. -/

open Sys2Proof Sys2Proof.Machine

/-! ## Encoding (30_encoding.md) -/

/-- R95: the worked encodings. Each assembly line assembles to its word, and the word decodes to its command. -/
def Obligations.WorkedEncodings : Prop :=
  (assemble (.setPixel 0 0xFF0000 100) = some 0x1064000000FF0000 ∧
    decode 0x1064000000FF0000 = .command (.setPixel 0 100 0xFF 0x00 0x00)) ∧
  (assemble (.setPixel 1 0x00FF00 100) = some 0x106400010000FF00 ∧
    decode 0x106400010000FF00 = .command (.setPixel 1 100 0x00 0xFF 0x00)) ∧
  (assemble (.setPixel 2 0x000000 0) = some 0x1000000200000000 ∧
    decode 0x1000000200000000 = .command (.setPixel 2 0 0x00 0x00 0x00)) ∧
  (assemble (.setPixel 29 0x123456 50) = some 0x1032001D00123456 ∧
    decode 0x1032001D00123456 = .command (.setPixel 29 50 0x12 0x34 0x56)) ∧
  (assemble .submitFrame = some 0x2000000000000000 ∧ decode 0x2000000000000000 = .command .submitFrame) ∧
  (assemble .queryBusy = some 0x3000000000000000 ∧ decode 0x3000000000000000 = .command .queryBusy)

/-- R81, R85, R86: the word written for a command decodes to that command, at every value of every operand. -/
def Obligations.DecodeOfEncode : Prop :=
  ∀ i : Instr, decode (encode i) = .command i

/-- R84, R85: a word that decodes to a command is the one word written for it, so no two words spell one command. -/
def Obligations.EncodeOfDecode : Prop :=
  ∀ (w : Command) (i : Instr), decode w = .command i → encode i = w

/-- R85: a word selects a row of the opcode map exactly when it decodes to a command of that row, and no word selects two. -/
def Obligations.DecodeFollowsOpcodeMap : Prop :=
  (∀ (row : OpcodeRow) (w : Command), row ∈ opcodeMap →
    (w &&& row.mask = row.pattern ↔ ∃ i, decode w = .command i ∧ i.row = row)) ∧
  (∀ (r₁ r₂ : OpcodeRow) (w : Command), r₁ ∈ opcodeMap → r₂ ∈ opcodeMap →
    w &&& r₁.mask = r₁.pattern → w &&& r₂.mask = r₂.pattern → r₁ = r₂)

/-- R87: the illegal words, by their bits, and what issuing one does: RESP gets ILLEGAL_COMMAND and no other state of
the block changes. -/
def Obligations.IllegalWords : Prop :=
  ∀ w : Command,
    ((∃ why, decode w = .illegal why) ↔
      (w.extractLsb' 60 4 = 0 ∨ 4 ≤ (w.extractLsb' 60 4).toNat) ∨
      (w.extractLsb' 60 4 = 1 ∧ (w.extractLsb' 56 4 ≠ 0 ∨ w.extractLsb' 24 8 ≠ 0)) ∨
      ((w.extractLsb' 60 4 = 2 ∨ w.extractLsb' 60 4 = 3) ∧ w.extractLsb' 0 60 ≠ 0)) ∧
    ∀ s : State, (∃ why, decode w = .illegal why) →
      takeEvent (.issue w) s = .next { s with
        resp := respWord .illegalCommand s.busy s.fault
        responses := s.responses ++ [respWord .illegalCommand s.busy s.fault] }

/-- R83: the operands of a SET_PIXEL word are its fields, and a word whose index or brightness is out of range still
decodes to SET_PIXEL. -/
def Obligations.OperandsAreFields : Prop :=
  ∀ w : Command, w.extractLsb' 60 4 = 1 → w.extractLsb' 56 4 = 0 → w.extractLsb' 24 8 = 0 →
    decode w = .command (.setPixel (w.extractLsb' 32 16) (w.extractLsb' 48 8) (w.extractLsb' 16 8)
      (w.extractLsb' 8 8) (w.extractLsb' 0 8))

/-- R93: the assembler's words decode to the operands as written, and it rejects what does not fit its field. -/
def Obligations.AssembledWordsDecode : Prop :=
  (∀ index rrggbb bright : Nat, index ≤ 65535 → rrggbb ≤ 0xFFFFFF → bright ≤ 255 →
    ∃ w, assemble (.setPixel index rrggbb bright) = some w ∧
      w.toNat = 2 ^ 60 + bright * 2 ^ 48 + index * 2 ^ 32 + rrggbb ∧
      decode w = .command (.setPixel (BitVec.ofNat 16 index) (BitVec.ofNat 8 bright)
        (BitVec.ofNat 8 (rrggbb / 2 ^ 16)) (BitVec.ofNat 8 (rrggbb / 2 ^ 8)) (BitVec.ofNat 8 rrggbb))) ∧
  (∀ index rrggbb bright : Nat, 65535 < index ∨ 255 < bright → assemble (.setPixel index rrggbb bright) = none)

/-! ## Steps and responses (R6, R80, R89) -/

/-- R6, R80: in a valid build a step takes the first scheduled event; when that event issues a word of a command, the
step is that command's `exec`; a word placed by `withFetchWord` is that event. Where nothing is scheduled the next
event is the free choice (log 2). -/
def Obligations.StepRunsDecodedCommand : Prop :=
  ∀ s : State, s.build.valid = true →
    (∀ e rest, s.agenda = e :: rest → step s = takeEvent e { s with agenda := rest }) ∧
    (∀ w rest i, s.agenda = .issue w :: rest → decode w = .command i → step s = exec i { s with agenda := rest }) ∧
    (∀ nbits w i, decodeTableWord nbits w = some i → step (s.withFetchWord nbits w) = exec i s) ∧
    (s.agenda = [] → step s = takeEvent (Config.freeEvent s.draws) { s with draws := s.draws + 1 })

/-- R89: the layout of the response word, and the eleven values that can occur: from every state in one of the four
phases a step adds at most one response, one of the eleven; and each of the eleven is the response of some Issue step. -/
def Obligations.ResponseWords : Prop :=
  (∀ st busy fault,
    (respWord st busy fault).extractLsb' 0 2 = st.bits ∧ (respWord st busy fault).getLsbD 8 = busy ∧
    (respWord st busy fault).getLsbD 9 = fault ∧
    ∀ k, (2 ≤ k ∧ k < 8) ∨ 10 ≤ k → (respWord st busy fault).getLsbD k = false) ∧
  (∀ (s t : State) (e : Event), s.phaseInv = true → takeEvent e s = .next t →
    t.responses = s.responses ∨ ∃ w ∈ elevenResponses, t.responses = s.responses ++ [w]) ∧
  (∀ w ∈ elevenResponses, ∃ (s t : State) (cmd : Command),
    s.phaseInv = true ∧ takeEvent (.issue cmd) s = .next t ∧ t.resp = w)

/-- R26, R80: every Issue step answers a next state and writes RESP, and the HOST receives that word; the steps of the
hardware never change RESP. -/
def Obligations.RespWrittenByIssue : Prop :=
  (∀ (w : Command) (s : State), ∃ t st, takeEvent (.issue w) s = .next t ∧
    t.resp = respWord st t.busy t.fault ∧ t.responses = s.responses ++ [t.resp]) ∧
  (∀ (e : Event) (s t : State), takeEvent e s = .next t →
    e = .update ∨ e = .idlePeriod ∨ e = .complete ∨ e = .dmaError →
    t.resp = s.resp ∧ t.responses = s.responses)

/-- R185: exactly one status is reported, the first of: ILLEGAL_COMMAND, INVALID_PARAMETER for the index,
INVALID_PARAMETER for the brightness, DEVICE_BUSY. -/
def Obligations.StatusPriority : Prop :=
  ∀ (w : Command) (s : State), ∃ t, takeEvent (.issue w) s = .next t ∧
    t.resp.extractLsb' 0 2 =
      match decode w with
      | .illegal _ => 3
      | .command (.setPixel index bright _ _ _) =>
          if s.build.n ≤ index.toNat then 1 else if 100 < bright.toNat then 1 else if s.busy then 2 else 0
      | .command .submitFrame => if s.busy then 2 else 0
      | .command .queryBusy => 0

/-- R184: a command whose status is an error leaves every state element unchanged except RESP. -/
def Obligations.RejectedCommandsChangeOnlyResp : Prop :=
  ∀ (w : Command) (s t : State), takeEvent (.issue w) s = .next t → t.resp.extractLsb' 0 2 ≠ 0 →
    t = { s with resp := t.resp, responses := s.responses ++ [t.resp] }

/-! ## SET_PIXEL (40_encoder.md) -/

/-- R111: the laws of Scale. -/
def Obligations.ScaleLaws : Prop :=
  (∀ c p, p ≤ 100 → c ≤ 255 →
    scale c p ≤ c ∧ scale c p ≤ 255 ∧ scale c 0 = 0 ∧ scale c 100 = c ∧ scale 0 p = 0) ∧
  (∀ c c' p p', c ≤ c' → p ≤ p' → scale c p ≤ scale c' p') ∧
  (scale 255 50 = 127 ∧ scale (255 + 255) 50 ≠ scale 255 50 + scale 255 50)

/-- R112: green in bits 23 to 16, red in bits 15 to 8, blue in bits 7 to 0; truncation to 24 bits removes nothing. -/
def Obligations.PackLayout : Prop :=
  ∀ r g b : Nat, r ≤ 255 → g ≤ 255 → b ≤ 255 →
    pack r g b = BitVec.ofNat 8 g ++ BitVec.ofNat 8 r ++ BitVec.ofNat 8 b ∧
    (pack r g b).toNat = g * 2 ^ 16 + r * 2 ^ 8 + b

/-- R182: SET_PIXEL with `index >= N` or `bright > 100` returns INVALID_PARAMETER (status 1) in every state, busy or
not, and records nothing else. -/
def Obligations.SetPixelInvalidParameter : Prop :=
  Status.bits .invalidParameter = 1 ∧
  ∀ (index : BitVec 16) (bright red green blue : Byte) (s : State),
    s.build.n ≤ index.toNat ∨ 100 < bright.toNat →
    exec (.setPixel index bright red green blue) s = .next { s with
      resp := respWord .invalidParameter s.busy s.fault
      responses := s.responses ++ [respWord .invalidParameter s.busy s.fault] }

/-- R183: while BUSY = 1, SUBMIT_FRAME and SET_PIXEL with legal operands return DEVICE_BUSY (status 2), and record
nothing else. -/
def Obligations.DeviceBusyWhileBusy : Prop :=
  Status.bits .deviceBusy = 2 ∧
  ∀ s : State, s.busy = true →
    exec .submitFrame s = .next { s with
      resp := respWord .deviceBusy true s.fault
      responses := s.responses ++ [respWord .deviceBusy true s.fault] } ∧
    ∀ (index : BitVec 16) (bright red green blue : Byte), index.toNat < s.build.n → bright.toNat ≤ 100 →
      exec (.setPixel index bright red green blue) s = .next { s with
        resp := respWord .deviceBusy true s.fault
        responses := s.responses ++ [respWord .deviceBusy true s.fault] }

/-- R113, R114 (with R110, R112 and R117 spelled out): an idle SET_PIXEL with legal operands completes with status OK, and
slot `24*i + j` gets `CODE_1` or `CODE_0` by bit `23 - j` of the packed word. -/
def Obligations.SetPixelWritesPackedBits : Prop :=
  ∀ (index : BitVec 16) (bright red green blue : Byte) (s : State),
    index.toNat < s.build.n → bright.toNat ≤ 100 → s.busy = false →
    ∃ t, exec (.setPixel index bright red green blue) s = .next t ∧
      t.resp = respWord .ok false s.fault ∧
      ∀ j, j < 24 → readElem t (24 * index.toNat + j) =
        if (BitVec.ofNat 24 (green.toNat * bright.toNat / 100 * 2 ^ 16 + red.toNat * bright.toNat / 100 * 2 ^ 8 +
            blue.toNat * bright.toNat / 100)).getLsbD (23 - j)
        then s.build.code1.setWidth 32 else s.build.code0.setWidth 32

/-- R119 (the frame of SET_PIXEL): accepted, it changes only the bytes of its pixel's 24 slots, apart from RESP; rejected,
it changes only RESP; so it never changes a reset-region slot. -/
def Obligations.SetPixelFrame : Prop :=
  ∀ (index : BitVec 16) (bright red green blue : Byte) (s : State),
    ∃ t, exec (.setPixel index bright red green blue) s = .next t ∧
      t = { s with mem := t.mem, resp := t.resp, responses := s.responses ++ [t.resp] } ∧
      (∀ a, ¬ (slotAddr s.build (24 * index.toNat) ≤ a ∧ a < slotAddr s.build (24 * index.toNat) + 96) →
        readByte t a = readByte s a) ∧
      (s.build.n ≤ index.toNat ∨ 100 < bright.toNat ∨ s.busy = true → t.mem = s.mem) ∧
      (∀ k, s.build.pixelSlots ≤ k → readElem t k = readElem s k)

/-- R122: after an accepted SET_PIXEL, the word read back from the pixel's slots with Dec is
`(Scale(gg,p) << 16) | (Scale(rr,p) << 8) | Scale(bb,p)`, in every build with `CODE_0 != CODE_1`. -/
def Obligations.PixelDecodesToScaledColour : Prop :=
  ∀ (index : BitVec 16) (bright red green blue : Byte) (s : State), s.build.code0 ≠ s.build.code1 →
    index.toNat < s.build.n → bright.toNat ≤ 100 → s.busy = false →
    ∃ t, exec (.setPixel index bright red green blue) s = .next t ∧
      pixelWord t index.toNat = BitVec.ofNat 24 ((scale green.toNat bright.toNat <<< 16) |||
        (scale red.toNat bright.toNat <<< 8) ||| scale blue.toNat bright.toNat) ∧
      ∀ j, j < 24 → readElem t (24 * index.toNat + j) = s.build.code1.setWidth 32 ∨
        readElem t (24 * index.toNat + j) = s.build.code0.setWidth 32

/-- R123: repeating an accepted SET_PIXEL leaves the frame buffer as it was; of two on one index the second one's values
stay; two on different indices commute. -/
def Obligations.SetPixelRepeatOverwriteCommute : Prop :=
  ∀ (i j : BitVec 16) (p r g b p' r' g' b' : Byte) (s : State), s.busy = false →
    i.toNat < s.build.n → j.toNat < s.build.n → p.toNat ≤ 100 → p'.toNat ≤ 100 →
    ∃ t u v x y,
      exec (.setPixel i p r g b) s = .next t ∧
      exec (.setPixel i p r g b) t = .next u ∧
      exec (.setPixel j p' r' g' b') t = .next v ∧
      exec (.setPixel j p' r' g' b') s = .next x ∧
      exec (.setPixel i p r g b) x = .next y ∧
      (∀ a, readByte u a = readByte t a) ∧
      (∀ k, k < 24 → readElem v (24 * j.toNat + k) = readElem x (24 * j.toNat + k)) ∧
      (i ≠ j → ∀ a, readByte v a = readByte y a)

/-- R124: colours and brightnesses with the same scaled channels leave the same slots. -/
def Obligations.SameScaledColourSameSlots : Prop :=
  ∀ (i : BitVec 16) (p r g b p' r' g' b' : Byte) (s : State), s.busy = false → i.toNat < s.build.n →
    p.toNat ≤ 100 → p'.toNat ≤ 100 →
    scale r.toNat p.toNat = scale r'.toNat p'.toNat → scale g.toNat p.toNat = scale g'.toNat p'.toNat →
    scale b.toNat p.toNat = scale b'.toNat p'.toNat →
    ∃ t, exec (.setPixel i p r g b) s = .next t ∧ exec (.setPixel i p' r' g' b') s = .next t

/-- R118: brightness 0 turns a pixel off whatever its colour, full white at brightness 100 sets every slot to `CODE_1`,
and `index = N - 1` is legal and reaches the last pixel slot. -/
def Obligations.SetPixelCorners : Prop :=
  ∀ (i : BitVec 16) (r g b : Byte) (s : State), s.busy = false → i.toNat < s.build.n →
    (∃ t, exec (.setPixel i 0 r g b) s = .next t ∧
      ∀ j, j < 24 → readElem t (24 * i.toNat + j) = s.build.code0.setWidth 32) ∧
    (∃ t, exec (.setPixel i 100 255 255 255) s = .next t ∧
      (∀ j, j < 24 → readElem t (24 * i.toNat + j) = s.build.code1.setWidth 32) ∧
      (i.toNat = s.build.n - 1 → readElem t (s.build.pixelSlots - 1) = s.build.code1.setWidth 32))

/-- R120: ENCODE_RESET fills the reset region with `RESET_CODE = 0` and changes nothing else: no register, no pixel slot. -/
def Obligations.EncodeResetFillsRegion : Prop :=
  ∀ s : State,
    (∀ k, s.build.pixelSlots ≤ k → k < s.build.frameLen → readElem (encodeReset s) k = 0) ∧
    (∀ k, k < s.build.pixelSlots → readElem (encodeReset s) k = readElem s k) ∧
    (∀ a, ¬ (slotAddr s.build s.build.pixelSlots ≤ a ∧ a < slotAddr s.build s.build.frameLen) →
      readByte (encodeReset s) a = readByte s a) ∧
    encodeReset s = { s with mem := (encodeReset s).mem }

/-- R121: ENCODE_RESET changes nothing where the reset region already holds `RESET_CODE`: the state is the same, given
that the memory is in its canonical form (log 8). -/
def Obligations.EncodeResetIdempotent : Prop :=
  ∀ s : State, s.memoryInv = true →
    (∀ k, s.build.pixelSlots ≤ k → k < s.build.frameLen → readElem s k = Config.resetCode.setWidth 32) →
    encodeReset s = s

/-! ## The transmit controller (41_transmit.md) -/

/-- R140, R142: SUBMIT_FRAME arms one frame from Idle, and while BUSY = 1 changes nothing but RESP; every field of the
next state is said. In a valid build the count is `M`, whole. -/
def Obligations.SubmitFrameArms : Prop :=
  ∀ s : State,
    (s.busy = false → exec .submitFrame s = .next { s with
        dmaEn := true, dmaPtr := 0, dmaCnt := BitVec.ofNat 16 s.build.frameLen, busy := true, tmrCnt := 0, tmrEn := true
        resp := respWord .ok true s.fault
        responses := s.responses ++ [respWord .ok true s.fault] }) ∧
    (s.busy = true → exec .submitFrame s = .next { s with
        resp := respWord .deviceBusy true s.fault
        responses := s.responses ++ [respWord .deviceBusy true s.fault] }) ∧
    (s.build.valid = true → (BitVec.ofNat 16 s.build.frameLen).toNat = 24 * (s.build.n + s.build.r))

/-- R143: QUERY_BUSY returns OK in every state, with BUSY in RESP[8] and FAULT in RESP[9], and changes nothing else. -/
def Obligations.QueryBusyReports : Prop :=
  ∀ s : State, exec .queryBusy s = .next { s with
      resp := respWord .ok s.busy s.fault
      responses := s.responses ++ [respWord .ok s.busy s.fault] } ∧
    (respWord .ok s.busy s.fault).getLsbD 8 = s.busy ∧ (respWord .ok s.busy s.fault).getLsbD 9 = s.fault ∧
    (respWord .ok s.busy s.fault).extractLsb' 0 2 = 0

/-- R146: UPDATE moves one element. It is enabled as the rule says, in the states of a phase exactly while transferring;
enabled (and with its element inside the frame buffer, which R52 says of every reachable state), it leaves exactly
this state. -/
def Obligations.UpdateMovesOneElement : Prop :=
  ∀ s : State,
    (enabled .update s = true ↔ s.tmrEn = true ∧ s.dmaEn = true ∧ 1 ≤ s.dmaCnt.toNat) ∧
    (s.phaseInv = true → (enabled .update s = true ↔ s.isTransferring = true)) ∧
    (s.tmrEn = true → s.dmaEn = true → 1 ≤ s.dmaCnt.toNat → s.dmaPtr.toNat < s.build.frameLen →
      takeEvent .update s = .next { s with
        ccr := (readElem s s.dmaPtr.toNat).extractLsb' 0 16
        wave := s.wave ++ [.value ((readElem s s.dmaPtr.toNat).extractLsb' 0 16)]
        dmaPtr := s.dmaPtr + 1
        dmaCnt := s.dmaCnt - 1
        dmaEn := decide (s.dmaCnt ≠ 1)
        tcPending := s.tcPending || decide (s.dmaCnt = 1) })

/-- R52: an UPDATE whose element does not exist stops by name, and in every state in one of the four phases no UPDATE
does ("refusing it is the safe reading"). -/
def Obligations.UpdateOutsideFrameBuffer : Prop :=
  (∀ s : State, s.tmrEn = true → s.dmaEn = true → 1 ≤ s.dmaCnt.toNat → s.build.frameLen ≤ s.dmaPtr.toNat →
    takeEvent .update s = .fault .frameBufferIndex) ∧
  (∀ s : State, s.phaseInv = true → ∃ t, takeEvent .update s = .next t)

/-- R149: IDLE_PERIOD repeats the compare value and changes nothing else; it is enabled when TMR_EN = 1 and DMA_EN = 0, in
the states of a phase exactly while completion is pending. -/
def Obligations.IdlePeriodRepeats : Prop :=
  ∀ s : State,
    (enabled .idlePeriod s = true ↔ s.tmrEn = true ∧ s.dmaEn = false) ∧
    (s.phaseInv = true → (enabled .idlePeriod s = true ↔ s.isCompletionPending = true)) ∧
    (s.tmrEn = true → s.dmaEn = false →
      takeEvent .idlePeriod s = .next { s with wave := s.wave ++ [.value s.ccr] })

/-- R151: COMPLETE takes Busy to Idle, stops the timer and changes nothing else; it is enabled when TC_PENDING = 1. -/
def Obligations.CompleteEndsFrame : Prop :=
  ∀ s : State,
    (enabled .complete s = true ↔ s.tcPending = true) ∧
    (s.tcPending = true →
      takeEvent .complete s = .next { s with tcPending := false, tmrEn := false, tmrCnt := 0, busy := false })

/-- R186: DMA_ERROR sets FAULT, stops the channel and the timer, and leaves everything else; it is enabled when DMA_EN = 1,
in the states of a phase exactly while transferring, where BUSY is 1 and TC_PENDING 0 before and after. -/
def Obligations.DmaErrorFaults : Prop :=
  ∀ s : State,
    (enabled .dmaError s = true ↔ s.dmaEn = true) ∧
    (s.phaseInv = true → (enabled .dmaError s = true ↔ s.isTransferring = true)) ∧
    (s.isTransferring = true → s.busy = true ∧ s.tcPending = false) ∧
    (s.dmaEn = true → s.tcPending = false →
      takeEvent .dmaError s = .next { s with fault := true, dmaEn := false, tmrEn := false, tmrCnt := 0 })

/-- R192: the steps that may be taken next in each phase, and that DMA_ERROR and COMPLETE are never both enabled. -/
def Obligations.EnabledStepsByPhase : Prop :=
  ∀ s : State,
    (s.isIdle = true → ∀ e, enabled e s = true ↔ isHostEvent e = true ∨ e = .reset) ∧
    (s.isTransferring = true → ∀ e, enabled e s = true ↔
      isHostEvent e = true ∨ e = .update ∨ e = .dmaError ∨ e = .reset) ∧
    (s.isCompletionPending = true → ∀ e, enabled e s = true ↔
      isHostEvent e = true ∨ e = .idlePeriod ∨ e = .complete ∨ e = .reset) ∧
    (s.isFaulted = true → ∀ e, enabled e s = true ↔ isHostEvent e = true ∨ e = .reset) ∧
    (s.phaseInv = true → ¬ (enabled .dmaError s = true ∧ enabled .complete s = true))

/-- The model's own choice (log 3): a scheduled event that is not enabled is no step of the block and changes nothing. So
an UPDATE while idle or pending, an IDLE_PERIOD while a channel runs, a COMPLETE with nothing pending and a DMA_ERROR
with the channel stopped each leave the state as it is. -/
def Obligations.DisabledEventsChangeNothing : Prop :=
  ∀ s : State,
    (s.tmrEn = false ∨ s.dmaEn = false ∨ s.dmaCnt = 0 → takeEvent .update s = .next s) ∧
    (s.tmrEn = false ∨ s.dmaEn = true → takeEvent .idlePeriod s = .next s) ∧
    (s.tcPending = false → takeEvent .complete s = .next s) ∧
    (s.dmaEn = false → takeEvent .dmaError s = .next s)

/-- R144: the controller's transitions, every row of the table, and that Busy (faulted) has no exit but RESET. -/
def Obligations.ControllerTransitions : Prop :=
  ∀ s : State, s.build.valid = true →
    (s.isIdle = true → ∃ t, exec .submitFrame s = .next t ∧ t.isTransferring = true) ∧
    (s.isIdle = true → ∀ w, decode w ≠ .command .submitFrame →
      ∃ t, takeEvent (.issue w) s = .next t ∧ t.isIdle = true) ∧
    (s.isTransferring = true → ∃ t, takeEvent .update s = .next t ∧
      if 1 < s.dmaCnt.toNat then t.isTransferring = true else t.isCompletionPending = true) ∧
    (s.isCompletionPending = true → ∃ t, takeEvent .idlePeriod s = .next t ∧ t.isCompletionPending = true) ∧
    (s.isCompletionPending = true → ∃ t, takeEvent .complete s = .next t ∧ t.isIdle = true) ∧
    (s.isTransferring = true → ∃ t, takeEvent .dmaError s = .next t ∧ t.isFaulted = true) ∧
    (s.phaseInv = true → s.busy = true → ∀ w, ∃ t, takeEvent (.issue w) s = .next t ∧
      t.isTransferring = s.isTransferring ∧ t.isCompletionPending = s.isCompletionPending ∧ t.isFaulted = s.isFaulted ∧
      (decode w = .command .submitFrame → t.resp.extractLsb' 0 2 = 2) ∧
      (∀ index bright red green blue, decode w = .command (.setPixel index bright red green blue) →
        index.toNat < s.build.n → bright.toNat ≤ 100 → t.resp.extractLsb' 0 2 = 2)) ∧
    (∃ t, takeEvent .reset s = .next t ∧ t.isIdle = true) ∧
    (s.isFaulted = true → ∀ e t, e ≠ .reset → takeEvent e s = .next t → t.isFaulted = true)

/-! ## Invariants every step keeps (10_state.md section 5) -/

/-- R45, R46: the four phases exclude each other, and every step keeps the controller in one of them, with its counters
in their ranges (R28, R29, R31). -/
def Obligations.StepKeepsPhase : Prop :=
  (∀ s : State, [s.isIdle, s.isTransferring, s.isCompletionPending, s.isFaulted].count true ≤ 1) ∧
  (∀ s t : State, s.phaseInv = true → s.rangeInv = true → step s = .next t → t.phaseInv = true ∧ t.rangeInv = true)

/-- R44: every step keeps a code in every pixel slot and `RESET_CODE` in every reset slot. -/
def Obligations.StepKeepsFrameBuffer : Prop :=
  ∀ s t : State, s.frameBufferInv → step s = .next t → t.frameBufferInv

/-- The model's own convention (log 8): every step keeps the memory's canonical form, so that equal memories are equal lists. -/
def Obligations.StepKeepsMemoryForm : Prop :=
  ∀ s t : State, s.memoryInv = true → step s = .next t → t.memoryInv = true

/-- The invariants hold at power-on of every valid build, and at `State.reset` (whose build is log 1). -/
def Obligations.InvariantsAtReset : Prop :=
  (∀ b : Build, b.valid = true → (State.powerOn b).phaseInv = true ∧ (State.powerOn b).isIdle = true ∧
    (State.powerOn b).rangeInv = true ∧ (State.powerOn b).frameBufferInv ∧ (State.powerOn b).memoryInv = true) ∧
  State.reset.build.valid = true ∧ State.reset.phaseInv = true ∧ State.reset.rangeInv = true ∧
  State.reset.frameBufferInv ∧ State.reset.memoryInv = true

/-- R49: no step changes the build parameters. -/
def Obligations.StepKeepsBuild : Prop :=
  ∀ s t : State, step s = .next t → t.build = s.build

/-- R35: a step only appends to WAVE, and at most one entry: UPDATE and IDLE_PERIOD a compare value, RESET the marker, no
other event anything. -/
def Obligations.WaveOnlyGrows : Prop :=
  ∀ (e : Event) (s t : State), takeEvent e s = .next t →
    (t.wave = s.wave ∨ (∃ v, t.wave = s.wave ++ [.value v] ∧ (e = .update ∨ e = .idlePeriod)) ∨
      (t.wave = s.wave ++ [.rst] ∧ e = .reset)) ∧
    (e = .reset → t.wave = s.wave ++ [.rst])

/-- R42: who writes the three flags, over all events: what raises and what clears each. BUSY rises only by an event that
issues SUBMIT_FRAME, through the command port or by a write of CMD_HI; and a command writes no flag, except that an
accepted SUBMIT_FRAME sets BUSY. (That DMA_ERROR may clear a TC_PENDING is R42's list; log 6.) -/
def Obligations.FlagWriters : Prop :=
  (∀ (e : Event) (s t : State), takeEvent e s = .next t →
    (s.busy = false → t.busy = true → ∃ w, decode w = .command .submitFrame ∧
      (e = .issue w ∨ ∃ v, e = .access (.write (s.build.mmioBase + 4) 4 v) ∧ w = v ++ s.cmdLo)) ∧
    (s.busy = true → t.busy = false → (e = .complete ∧ s.tcPending = true) ∨ e = .reset) ∧
    (s.fault = true → t.fault = false → e = .reset) ∧
    (s.fault = false → t.fault = true → e = .dmaError ∧ s.dmaEn = true) ∧
    (s.tcPending = true → t.tcPending = false → e = .complete ∨ e = .dmaError ∨ e = .reset) ∧
    (s.tcPending = false → t.tcPending = true → e = .update ∧ s.dmaCnt = 1)) ∧
  (∀ (i : Instr) (s t : State), exec i s = .next t →
    t.fault = s.fault ∧ t.tcPending = s.tcPending ∧ (t.busy ≠ s.busy → i = .submitFrame ∧ t.busy = true))

/-- R45, C5: the buffer is never mutated while BUSY = 1, by any event but RESET. -/
def Obligations.BufferNeverMutatedWhileBusy : Prop :=
  ∀ (e : Event) (s t : State), s.busy = true → e ≠ .reset → takeEvent e s = .next t →
    t.mem = s.mem ∧ ∀ k, readElem t k = readElem s k

/-- R187: FAULT is sticky and fatal. While faulted, every event but RESET leaves the controller faulted, so BUSY stays 1
through any number of them, and commands and STATUS answer as the rule lists; RESET leaves the phase. -/
def Obligations.FaultIsSticky : Prop :=
  ∀ s : State, s.isFaulted = true →
    (∀ e t, e ≠ .reset → takeEvent e s = .next t → t.isFaulted = true ∧
      t.fault = true ∧ t.busy = true ∧ t.tcPending = false ∧ t.dmaEn = false ∧ t.tmrEn = false) ∧
    (∃ t, exec .submitFrame s = .next t ∧ t.resp = 0x302) ∧
    (∀ index bright red green blue, index.toNat < s.build.n → bright.toNat ≤ 100 →
      ∃ t, exec (.setPixel index bright red green blue) s = .next t ∧ t.resp = 0x302) ∧
    (∃ t, exec .queryBusy s = .next t ∧ t.resp = 0x300) ∧
    (takeEvent (.access (.read (s.build.mmioBase + 0x0C) 4)) s = .next { s with busReply := .data 0x3 }) ∧
    (∃ t, takeEvent .reset s = .next t ∧ t.fault = false)

/-! ## Frames (R68, R69, R152, R156, R240) -/

/-- R68, R186: at every point of a frame (after an accepted SUBMIT_FRAME, with no RESET, no DMA_ERROR and no COMPLETE yet),
the frame buffer is still what SUBMIT_FRAME saw, and WAVE has gained its first DMA_PTR values in order, then only
repetitions of the last value once the frame is out. -/
def Obligations.FrameSnapshot : Prop :=
  ∀ (s t u : State) (es : List Event), s.build.valid = true → s.isIdle = true →
    exec .submitFrame s = .next t → runEvents es t = .next u →
    (∀ e ∈ es, e ≠ .reset ∧ e ≠ .dmaError ∧ e ≠ .complete) →
    u.mem = s.mem ∧ u.busy = true ∧
    ∃ k, u.wave = s.wave ++ (frameValues s).take u.dmaPtr.toNat ++ List.replicate k (.value u.ccr) ∧
      (u.tcPending = false → k = 0)

/-- R156: the frame emission law. When the run from an accepted SUBMIT_FRAME reaches the point where its COMPLETE is
taken, WAVE has gained exactly the whole frame and then `k` copies of its last value; and COMPLETE adds nothing. Where
the frame buffer is as R44 says, the frame is its `24N` pixel values and then `24R` zeros, and the copies are zeros. -/
def Obligations.FrameEmission : Prop :=
  ∀ (s t u v : State) (es : List Event), s.build.valid = true → s.isIdle = true →
    exec .submitFrame s = .next t → runEvents es t = .next u →
    (∀ e ∈ es, e ≠ .reset ∧ e ≠ .dmaError ∧ e ≠ .complete) →
    u.tcPending = true → takeEvent .complete u = .next v →
    v.isIdle = true ∧
    (∃ k, v.wave = s.wave ++ frameValues s ++
      List.replicate k (.value (compareBits (readElem s (s.build.frameLen - 1))))) ∧
    (s.frameBufferInv → compareBits (readElem s (s.build.frameLen - 1)) = 0 ∧
      frameValues s = (frameValues s).take (24 * s.build.n) ++ List.replicate (24 * s.build.r) (.value 0))

/-- R44, R156: a frame's pixel bits are followed by at least `24R` periods of compare value 0. -/
def Obligations.FrameEndsInResetPeriods : Prop :=
  ∀ (s t u v : State) (es : List Event), s.build.valid = true → s.isIdle = true → s.frameBufferInv →
    exec .submitFrame s = .next t → runEvents es t = .next u →
    (∀ e ∈ es, e ≠ .reset ∧ e ≠ .dmaError ∧ e ≠ .complete) →
    u.tcPending = true → takeEvent .complete u = .next v →
    ∃ pixels k, pixels.length = 24 * s.build.n ∧ 24 * s.build.r ≤ k ∧
      (∀ x ∈ pixels, x = .value s.build.code0 ∨ x = .value s.build.code1) ∧
      v.wave = s.wave ++ pixels ++ List.replicate k (.value 0)

/-- R69: in every run without RESET from an accepted SUBMIT_FRAME, by the time BUSY is 0 again the whole frame has been
read, in order, before anything else in WAVE. -/
def Obligations.BusyEndsAfterWholeFrame : Prop :=
  ∀ (s t u : State) (es : List Event), s.build.valid = true → s.isIdle = true →
    exec .submitFrame s = .next t → runEvents es t = .next u → (∀ e ∈ es, e ≠ .reset) → u.busy = false →
    ∃ rest, u.wave = s.wave ++ frameValues s ++ rest

/-- R240: under fairness (a) and (b), an accepted SUBMIT_FRAME with no DMA_ERROR and no RESET after it reaches COMPLETE; and
if the host issues no command after it, the run ends, with the timer stopped and nothing pending (R241; which commands are
the program's is log 18). -/
def Obligations.FairFramesComplete : Prop :=
  ∀ (s t : State) (σ : Nat → Event), s.build.valid = true → s.isIdle = true → exec .submitFrame s = .next t →
    (∀ n, σ n ≠ .reset ∧ σ n ≠ .dmaError) → TimerFair σ t → CompletionFair σ t →
    (∃ n, σ n = .complete ∧ (stateAt σ t n).isCompletionPending = true ∧ (stateAt σ t (n + 1)).isIdle = true) ∧
    ((∀ n, issuesCommand s.build (σ n) = false) →
      ∃ n, RunEndsAt σ t n ∧ (stateAt σ t n).tmrEn = false ∧ (stateAt σ t n).tcPending = false)

/-! ## Reset (70_reset_and_hazards.md) -/

/-- R48: the power-on state of every build, element by element, and the registers of the window it shows. -/
def Obligations.PowerOnValues : Prop :=
  ∀ b : Build,
    (∀ k, k < 24 * b.n → readElem (State.powerOn b) k = b.code0.setWidth 32) ∧
    (∀ k, 24 * b.n ≤ k → k < 24 * (b.n + b.r) → readElem (State.powerOn b) k = 0) ∧
    (State.powerOn b).busy = false ∧ (State.powerOn b).tcPending = false ∧ (State.powerOn b).fault = false ∧
    (State.powerOn b).resp = 0 ∧ (State.powerOn b).dmaEn = false ∧ (State.powerOn b).dmaPtr = 0 ∧
    (State.powerOn b).dmaCnt = 0 ∧ (State.powerOn b).tmrEn = false ∧ (State.powerOn b).tmrCnt = 0 ∧
    (State.powerOn b).ccr = 0 ∧ (State.powerOn b).cmdLo = 0 ∧ (State.powerOn b).pin = false ∧
    (State.powerOn b).wave = [] ∧ (State.powerOn b).build = b ∧
    (∀ p ∈ [(WindowReg.cfgN, BitVec.ofNat 32 b.n), (.cfgR, BitVec.ofNat 32 b.r), (.cfgCode1, b.code1.setWidth 32),
        (.cfgCode0, b.code0.setWidth 32), (.cfgResetCode, (0 : Word)), (.cfgPeriod, BitVec.ofNat 32 b.periodTicks)],
      windowRead (State.powerOn b) p.1 = p.2) ∧
    (∀ s t : State, takeEvent .reset s = .next t → t.wave = s.wave ++ [.rst])

/-- R220: RESET, from every state: every register at its reset value, every slot refilled as at power-on, `RST` appended to
WAVE, the block Idle and the pin low. -/
def Obligations.ResetFromAnyState : Prop :=
  ∀ s : State, ∃ t, takeEvent .reset s = .next t ∧
    t = { s with
      mem := t.mem, busy := false, tcPending := false, fault := false, resp := 0, dmaEn := false, dmaPtr := 0
      dmaCnt := 0, tmrEn := false, tmrCnt := 0, ccr := 0, cmdLo := 0, wave := s.wave ++ [.rst] } ∧
    (∀ k, k < 24 * s.build.n → readElem t k = s.build.code0.setWidth 32) ∧
    (∀ k, 24 * s.build.n ≤ k → k < 24 * (s.build.n + s.build.r) → readElem t k = 0) ∧
    (∀ k, k < s.build.frameLen → readElem t k = readElem (State.powerOn s.build) k) ∧
    t.isIdle = true ∧ t.pin = false

/-! ## The host window (10_state.md section 3, 20_memory.md) -/

/-- R36, R37, R38, R39, R40, R62: what a 32-bit aligned read of each window register returns, with no side effect. -/
def Obligations.WindowReads : Prop :=
  ∀ s : State, ∀ p ∈ [(0x00, s.cmdLo), (0x04, 0), (0x08, s.resp),
      (0x0C, (BitVec.ofBool s.fault ++ BitVec.ofBool s.busy).setWidth 32),
      (0x10, BitVec.ofNat 32 s.build.n), (0x14, BitVec.ofNat 32 s.build.r),
      (0x18, s.build.code1.setWidth 32), (0x1C, s.build.code0.setWidth 32),
      (0x20, (0 : Word)), (0x24, BitVec.ofNat 32 s.build.periodTicks)],
    takeEvent (.access (.read (s.build.mmioBase + p.1) 4)) s = .next { s with busReply := .data p.2 }

/-- R38, R62: a write of CMD_LO stores the value and nothing else; writes of RESP, STATUS, the CFG registers and the
reserved offsets are ignored. -/
def Obligations.WindowWrites : Prop :=
  ∀ (s : State) (v : Word),
    takeEvent (.access (.write s.build.mmioBase 4 v)) s = .next { s with cmdLo := v, busReply := .done } ∧
    ∀ k, 2 ≤ k → k < 16 →
      takeEvent (.access (.write (s.build.mmioBase + 4 * k) 4 v)) s = .next { s with busReply := .done }

/-- R92: a write of CMD_HI issues `{v, CMD_LO}` as one step, so that writing CMD_LO then CMD_HI issues the whole word; CMD_LO
keeps its value. -/
def Obligations.CommandHighIssues : Prop :=
  (∀ (s : State) (v : Word), ∃ t, takeEvent (.issue (v ++ s.cmdLo)) s = .next t ∧
    takeEvent (.access (.write (s.build.mmioBase + 4) 4 v)) s = .next { t with busReply := .done } ∧
    t.cmdLo = s.cmdLo) ∧
  (∀ (s : State) (cmd : Command), ∃ t u,
    runEvents [.access (.write s.build.mmioBase 4 (cmd.extractLsb' 0 32)),
      .access (.write (s.build.mmioBase + 4) 4 (cmd.extractLsb' 32 32))] s = .next t ∧
    takeEvent (.issue cmd) s = .next u ∧
    t = { u with cmdLo := cmd.extractLsb' 0 32, busReply := .done } ∧
    takeEvent (.access (.read (s.build.mmioBase + 8) 4)) t = .next { t with busReply := .data u.resp })

/-- R60: an access that touches the window and is not 32 bits wide, or not 4-byte aligned, gets BusError and changes no
state of the block. That an access straddling an end of the window is the window's is the model's choice (log 9), and
so is BusError as a next state with its own reply field (log 5). -/
def Obligations.BusErrorChangesNothing : Prop :=
  ∀ (s : State) (addr bytes : Nat) (v : Word), s.build.valid = true →
    addr < s.build.mmioBase + 64 → s.build.mmioBase < addr + bytes → bytes ≠ 4 ∨ addr % 4 ≠ 0 →
    takeEvent (.access (.read addr bytes)) s = .next { s with busReply := .busError } ∧
    takeEvent (.access (.write addr bytes v)) s = .next { s with busReply := .busError }

/-- R51 (and the model's choice of log 9): a host access that touches the frame buffer and not the window is refused by
name; the host has no path to it. -/
def Obligations.HostCannotReachFrameBuffer : Prop :=
  ∀ (s : State) (a : BusAccess),
    touches s.build.mmioBase 64 (accessAddr a) (accessBytes a) = false →
    touches s.build.fbBase (4 * s.build.frameLen) (accessAddr a) (accessBytes a) = true →
    takeEvent (.access a) s = .refused .hostFrameBuffer

/-- R36: reading STATUS gives BUSY as a QUERY_BUSY issued at the same point does, and FAULT with it. -/
def Obligations.StatusAgreesWithQuery : Prop :=
  ∀ s : State, ∃ t v, exec .queryBusy s = .next t ∧
    takeEvent (.access (.read (s.build.mmioBase + 0x0C) 4)) s = .next { s with busReply := .data v } ∧
    v.getLsbD 0 = t.resp.getLsbD 8 ∧ v.getLsbD 1 = t.resp.getLsbD 9 ∧ ∀ k, 2 ≤ k → v.getLsbD k = false

/-! ## The pin and the tick level (R154, R157, R158) -/

/-- R157, R158: the pin is high for exactly `min(v, PERIOD_TICKS)` ticks of a period, the first ones; it is low while the
timer is stopped, so after RESET, COMPLETE and DMA_ERROR. -/
def Obligations.PinHighTime : Prop :=
  (∀ (b : Build) (v : Half), highTicks b v = min v.toNat b.periodTicks) ∧
  (∀ (b : Build) (v : Half) (x y : Nat), x ≤ y → pinAtTick b v y = true → pinAtTick b v x = true) ∧
  (∀ s : State, s.tmrEn = false → s.pin = false) ∧
  (∀ s t : State, takeEvent .reset s = .next t → t.pin = false) ∧
  (∀ s t : State, s.tcPending = true → takeEvent .complete s = .next t → t.pin = false) ∧
  (∀ s t : State, s.dmaEn = true → takeEvent .dmaError s = .next t → t.pin = false)

/-- R145, R148, R154, R157: the tick level (log 11) refines the period level. In a running timer at the start of a period
whose event is taken, the pin at tick `x` is what R157 says of the period's compare value, and PERIOD_TICKS ticks are
exactly one TIMER/DMA step: UPDATE where it is enabled, IDLE_PERIOD where the channel is disabled. An accepted
SUBMIT_FRAME's first event comes at once: before any tick its UPDATE has loaded `FB[0]`, the first period carries that
value at every tick, and its end is the second UPDATE. -/
def Obligations.TicksRefineOnePeriod : Prop :=
  (∀ s : State, s.build.valid = true → s.tmrEn = true → s.tmrCnt = 0 → startEventDue s = false →
    (∀ x, x < s.build.periodTicks → ∃ t, timerTicks x s = .next t ∧ t = { s with tmrCnt := BitVec.ofNat 16 x } ∧
      t.pin = pinAtTick s.build s.ccr x) ∧
    (s.dmaEn = true → s.dmaCnt ≠ 0 → timerTicks s.build.periodTicks s = takeEvent .update s) ∧
    (s.dmaEn = false → timerTicks s.build.periodTicks s = takeEvent .idlePeriod s)) ∧
  (∀ s t : State, s.build.valid = true → s.busy = false → exec .submitFrame s = .next t →
    startEventDue t = true ∧ ∃ u v, takeEvent .update t = .next u ∧ takeEvent .update u = .next v ∧
      u.ccr = (readElem s 0).extractLsb' 0 16 ∧ u.wave = s.wave ++ [.value u.ccr] ∧
      startEventDue u = false ∧ takeStartEvent t = .next u ∧
      (∀ x, x < s.build.periodTicks → ∃ q, timerTicks x t = .next q ∧ q = { u with tmrCnt := BitVec.ofNat 16 x } ∧
        q.pin = pinAtTick s.build u.ccr x) ∧
      timerTicks s.build.periodTicks t = .next v)

/-! ## Build constraints (R58, R236) -/

/-- R58: in a valid build every address the DMA reads and the address it writes are 4-byte aligned. -/
def Obligations.DmaAddressesAligned : Prop :=
  ∀ (b : Build) (k : Nat), b.valid = true → slotAddr b k % 4 = 0 ∧ b.ccrAddr % 4 = 0

/-- R236: at a bit period of 1.25 µs a valid build has `R >= 2`. -/
def Obligations.ResetIntervalNeedsTwoSlots : Prop :=
  ∀ b : Build, b.valid = true → 0 < b.timerHz → b.periodTicks * 1000000 * 4 = 5 * b.timerHz → 2 ≤ b.r
end

