-- ==== Sys2Proof/Laws/Memory.lean ====
section
/-! SUPPORT. The laws of the frame-buffer memory: a read after a write, the untouched rest, and the canonical form. -/

namespace Sys2Proof.Machine

theorem lookup_erase_self (m : List Host.Cell) (a : Nat) : Memory.lookup (Memory.erase m a) a = none := by
  induction m with
  | nil => rfl
  | cons c cs ih => by_cases h : c.1 = a <;> simp [Memory.erase, Memory.lookup, h, ih]

theorem lookup_erase_other (m : List Host.Cell) {a x : Nat} (hx : x ≠ a) :
    Memory.lookup (Memory.erase m a) x = Memory.lookup m x := by
  induction m with
  | nil => rfl
  | cons c cs ih =>
    by_cases h : c.1 = a
    · have : c.1 ≠ x := by omega
      simp [Memory.erase, Memory.lookup, h, ih]
      omega
    · simp [Memory.erase, Memory.lookup, h, ih]

theorem lookup_insert_other (m : List Host.Cell) {a x : Nat} (v : Byte) (hx : x ≠ a) :
    Memory.lookup (Memory.insert m a v) x = Memory.lookup m x := by
  induction m with
  | nil => simp [Memory.insert, Memory.lookup, Ne.symm hx]
  | cons c cs ih =>
    by_cases h : a < c.1
    · simp [Memory.insert, Memory.lookup, h, Ne.symm hx]
    · simp [Memory.insert, Memory.lookup, h, ih]

theorem lookup_insert_self (m : List Host.Cell) (a : Nat) (v : Byte) (h : Memory.lookup m a = none) :
    Memory.lookup (Memory.insert m a v) a = some v := by
  induction m with
  | nil => simp [Memory.insert, Memory.lookup]
  | cons c cs ih =>
    have hc : c.1 ≠ a := by
      intro hca
      simp [Memory.lookup, hca] at h
    have h' : Memory.lookup cs a = none := by simpa [Memory.lookup, hc] using h
    by_cases hlt : a < c.1
    · simp [Memory.insert, Memory.lookup, hlt]
    · simp [Memory.insert, Memory.lookup, hlt, hc, ih h']

/-- A read after a write to the same address gives the byte written. -/
@[simp] theorem read_write_self (b : Build) (m : List Host.Cell) (a : Nat) (v : Byte) :
    Memory.read b (Memory.write b m a v) a = v := by
  by_cases h : v = Memory.resetByte b a
  · simp [Memory.write, Memory.read, lookup_erase_self, h]
  · simp [Memory.write, Memory.read, h, lookup_insert_self _ _ _ (lookup_erase_self m a)]

/-- A write leaves every other address alone. -/
theorem read_write_other (b : Build) (m : List Host.Cell) {a x : Nat} (v : Byte) (hx : x ≠ a) :
    Memory.read b (Memory.write b m a v) x = Memory.read b m x := by
  by_cases h : v = Memory.resetByte b a
  · simp [Memory.write, Memory.read, h, lookup_erase_other m hx]
  · simp [Memory.write, Memory.read, h, lookup_insert_other _ v hx, lookup_erase_other m hx]

/-! The canonical form. -/

theorem rising_mono {lo lo' : Nat} {m : List Host.Cell} (h : lo' ≤ lo) (hm : Memory.rising lo m = true) :
    Memory.rising lo' m = true := by
  cases m with
  | nil => rfl
  | cons c cs =>
    simp only [Memory.rising, Bool.and_eq_true, decide_eq_true_eq] at hm ⊢
    exact ⟨by omega, hm.2⟩

theorem rising_erase (m : List Host.Cell) (lo a : Nat) (h : Memory.rising lo m = true) :
    Memory.rising lo (Memory.erase m a) = true := by
  induction m generalizing lo with
  | nil => rfl
  | cons c cs ih =>
    simp only [Memory.rising, Bool.and_eq_true, decide_eq_true_eq] at h
    by_cases hc : c.1 = a
    · simpa [Memory.erase, hc] using rising_mono (by omega) (ih _ h.2)
    · simp [Memory.erase, hc, Memory.rising, h.1, ih _ h.2]

theorem rising_insert (m : List Host.Cell) (lo a : Nat) (v : Byte) (hlo : lo ≤ a)
    (h : Memory.rising lo m = true) (ha : Memory.lookup m a = none) :
    Memory.rising lo (Memory.insert m a v) = true := by
  induction m generalizing lo with
  | nil => simp [Memory.insert, Memory.rising, hlo]
  | cons c cs ih =>
    simp only [Memory.rising, Bool.and_eq_true, decide_eq_true_eq] at h
    have hc : c.1 ≠ a := by
      intro hca
      simp [Memory.lookup, hca] at ha
    have ha' : Memory.lookup cs a = none := by simpa [Memory.lookup, hc] using ha
    by_cases hlt : a < c.1
    · simp [Memory.insert, Memory.rising, hlt, hlo, h.2]
    · simp [Memory.insert, Memory.rising, hlt, h.1, ih _ (by omega) h.2 ha']

theorem mem_of_mem_erase {m : List Host.Cell} {a : Nat} {c : Host.Cell} (h : c ∈ Memory.erase m a) : c ∈ m := by
  induction m with
  | nil => simp [Memory.erase] at h
  | cons d ds ih =>
    by_cases hd : d.1 = a
    · simp only [Memory.erase, hd, if_true] at h
      exact List.mem_cons_of_mem _ (ih h)
    · simp only [Memory.erase, hd, if_false, List.mem_cons] at h
      rcases h with h | h
      · simp [h]
      · exact List.mem_cons_of_mem _ (ih h)

theorem mem_of_mem_insert {m : List Host.Cell} {a : Nat} {v : Byte} {c : Host.Cell} (h : c ∈ Memory.insert m a v) :
    c = (a, v) ∨ c ∈ m := by
  induction m with
  | nil => simpa [Memory.insert] using h
  | cons d ds ih =>
    by_cases hd : a < d.1
    · simpa [Memory.insert, hd] using h
    · simp only [Memory.insert, hd, if_false, List.mem_cons] at h
      rcases h with h | h
      · simp [h]
      · rcases ih h with h | h <;> simp [h]

/-- A write inside the frame-buffer space keeps the canonical form. -/
theorem wf_write (b : Build) (m : List Host.Cell) (a : Nat) (v : Byte) (h : Memory.wf b m = true)
    (ha : Memory.inSpace b a = true) : Memory.wf b (Memory.write b m a v) = true := by
  simp only [Memory.wf, Bool.and_eq_true, List.all_eq_true, bne_iff_ne] at h ⊢
  obtain ⟨hr, hall⟩ := h
  unfold Memory.write
  split
  · exact ⟨rising_erase m 0 a hr, fun c hc => hall c (mem_of_mem_erase hc)⟩
  · next hv =>
    refine ⟨rising_insert _ 0 a v (by omega) (rising_erase m 0 a hr) (lookup_erase_self m a), fun c hc => ?_⟩
    rcases mem_of_mem_insert hc with rfl | hc
    · exact ⟨ha, hv⟩
    · exact hall c (mem_of_mem_erase hc)

theorem wf_nil (b : Build) : Memory.wf b [] = true := rfl

/-- A listed byte of a canonical memory is not what its address reads as when unlisted. -/
theorem lookup_ne_resetByte {b : Build} {m : List Host.Cell} (h : Memory.wf b m = true) {a : Nat} {v : Byte}
    (hv : Memory.lookup m a = some v) : v ≠ Memory.resetByte b a := by
  simp only [Memory.wf, Bool.and_eq_true, List.all_eq_true, bne_iff_ne] at h
  have key : ∀ m : List Host.Cell, (∀ c ∈ m, c.2 ≠ Memory.resetByte b c.1) → Memory.lookup m a = some v →
      v ≠ Memory.resetByte b a := by
    intro m
    induction m with
    | nil => simp [Memory.lookup]
    | cons c cs ih =>
      intro hall hl
      by_cases hc : c.1 = a
      · have hh := hall c (by simp)
        simp only [Memory.lookup, hc, if_true, Option.some.injEq] at hl
        rwa [hl, hc] at hh
      · exact ih (fun d hd => hall d (by simp [hd])) (by simpa [Memory.lookup, hc] using hl)
  exact key m (fun c hc => (h.2 c hc).2) hv

theorem lookup_none_of_rising {lo : Nat} {m : List Host.Cell} (h : Memory.rising lo m = true) {a : Nat} (ha : a < lo) :
    Memory.lookup m a = none := by
  induction m generalizing lo with
  | nil => rfl
  | cons c cs ih =>
    simp only [Memory.rising, Bool.and_eq_true, decide_eq_true_eq] at h
    have : c.1 ≠ a := by omega
    simp [Memory.lookup, this, ih h.2 (by omega)]

theorem eq_of_lookup_eq {m m' : List Host.Cell} {lo lo' : Nat} (h : Memory.rising lo m = true)
    (h' : Memory.rising lo' m' = true) (he : ∀ a, Memory.lookup m a = Memory.lookup m' a) : m = m' := by
  induction m generalizing m' lo lo' with
  | nil =>
    cases m' with
    | nil => rfl
    | cons c cs => simpa [Memory.lookup] using he c.1
  | cons c cs ih =>
    cases m' with
    | nil => simpa [Memory.lookup] using he c.1
    | cons d ds =>
      simp only [Memory.rising, Bool.and_eq_true, decide_eq_true_eq] at h h'
      have hcd : c.1 = d.1 := by
        rcases Nat.lt_trichotomy c.1 d.1 with hlt | heq | hgt
        · have := he c.1
          rw [Memory.lookup, if_pos rfl, Memory.lookup, if_neg (by omega),
            lookup_none_of_rising h'.2 (by omega)] at this
          exact absurd this (by simp)
        · exact heq
        · have := he d.1
          rw [Memory.lookup, if_neg (by omega), Memory.lookup, if_pos rfl,
            lookup_none_of_rising h.2 (by omega)] at this
          exact absurd this (by simp)
      have hc : c = d := by
        have := he c.1
        simp only [Memory.lookup, hcd, if_true, Option.some.injEq] at this
        exact Prod.ext hcd this
      subst hc
      congr 1
      refine ih h.2 h'.2 (fun a => ?_)
      by_cases ha : c.1 = a
      · rw [lookup_none_of_rising h.2 (by omega), lookup_none_of_rising h'.2 (by omega)]
      · simpa [Memory.lookup, ha] using he a

/-- Two canonical memories that read the same everywhere are the same list. -/
theorem mem_ext {b : Build} {m m' : List Host.Cell} (h : Memory.wf b m = true) (h' : Memory.wf b m' = true)
    (he : ∀ a, Memory.read b m a = Memory.read b m' a) : m = m' := by
  have hw := h
  have hw' := h'
  simp only [Memory.wf, Bool.and_eq_true] at h h'
  refine eq_of_lookup_eq h.1 h'.1 (fun a => ?_)
  have ha := he a
  unfold Memory.read at ha
  cases hl : Memory.lookup m a with
  | none =>
    cases hl' : Memory.lookup m' a with
    | none => rfl
    | some v' =>
      rw [hl, hl'] at ha
      exact absurd ha.symm (lookup_ne_resetByte hw' hl')
  | some v =>
    cases hl' : Memory.lookup m' a with
    | none =>
      rw [hl, hl'] at ha
      exact absurd ha (lookup_ne_resetByte hw hl)
    | some v' =>
      rw [hl, hl'] at ha
      exact congrArg some ha

end Sys2Proof.Machine
end

