-- ==== Sys2Proof/Laws/State.lean ====
section
/-! SUPPORT. One lemma per field per update of State, each true by unfolding the update once. -/

namespace Sys2Proof.Machine

/-! `respond` -/

@[simp] theorem respond_build (st : Status) (s : State) : (respond st s).build = s.build := rfl
@[simp] theorem respond_mem (st : Status) (s : State) : (respond st s).mem = s.mem := rfl
@[simp] theorem respond_busy (st : Status) (s : State) : (respond st s).busy = s.busy := rfl
@[simp] theorem respond_tcPending (st : Status) (s : State) : (respond st s).tcPending = s.tcPending := rfl
@[simp] theorem respond_fault (st : Status) (s : State) : (respond st s).fault = s.fault := rfl
@[simp] theorem respond_resp (st : Status) (s : State) : (respond st s).resp = respWord st s.busy s.fault := rfl
@[simp] theorem respond_dmaEn (st : Status) (s : State) : (respond st s).dmaEn = s.dmaEn := rfl
@[simp] theorem respond_dmaPtr (st : Status) (s : State) : (respond st s).dmaPtr = s.dmaPtr := rfl
@[simp] theorem respond_dmaCnt (st : Status) (s : State) : (respond st s).dmaCnt = s.dmaCnt := rfl
@[simp] theorem respond_tmrEn (st : Status) (s : State) : (respond st s).tmrEn = s.tmrEn := rfl
@[simp] theorem respond_tmrCnt (st : Status) (s : State) : (respond st s).tmrCnt = s.tmrCnt := rfl
@[simp] theorem respond_ccr (st : Status) (s : State) : (respond st s).ccr = s.ccr := rfl
@[simp] theorem respond_cmdLo (st : Status) (s : State) : (respond st s).cmdLo = s.cmdLo := rfl
@[simp] theorem respond_wave (st : Status) (s : State) : (respond st s).wave = s.wave := rfl
@[simp] theorem respond_responses (st : Status) (s : State) : (respond st s).responses = s.responses ++ [respWord st s.busy s.fault] := rfl
@[simp] theorem respond_busReply (st : Status) (s : State) : (respond st s).busReply = s.busReply := rfl
@[simp] theorem respond_agenda (st : Status) (s : State) : (respond st s).agenda = s.agenda := rfl
@[simp] theorem respond_draws (st : Status) (s : State) : (respond st s).draws = s.draws := rfl

/-! `reply` -/

@[simp] theorem reply_build (r : BusReply) (s : State) : (reply r s).build = s.build := rfl
@[simp] theorem reply_mem (r : BusReply) (s : State) : (reply r s).mem = s.mem := rfl
@[simp] theorem reply_busy (r : BusReply) (s : State) : (reply r s).busy = s.busy := rfl
@[simp] theorem reply_tcPending (r : BusReply) (s : State) : (reply r s).tcPending = s.tcPending := rfl
@[simp] theorem reply_fault (r : BusReply) (s : State) : (reply r s).fault = s.fault := rfl
@[simp] theorem reply_resp (r : BusReply) (s : State) : (reply r s).resp = s.resp := rfl
@[simp] theorem reply_dmaEn (r : BusReply) (s : State) : (reply r s).dmaEn = s.dmaEn := rfl
@[simp] theorem reply_dmaPtr (r : BusReply) (s : State) : (reply r s).dmaPtr = s.dmaPtr := rfl
@[simp] theorem reply_dmaCnt (r : BusReply) (s : State) : (reply r s).dmaCnt = s.dmaCnt := rfl
@[simp] theorem reply_tmrEn (r : BusReply) (s : State) : (reply r s).tmrEn = s.tmrEn := rfl
@[simp] theorem reply_tmrCnt (r : BusReply) (s : State) : (reply r s).tmrCnt = s.tmrCnt := rfl
@[simp] theorem reply_ccr (r : BusReply) (s : State) : (reply r s).ccr = s.ccr := rfl
@[simp] theorem reply_cmdLo (r : BusReply) (s : State) : (reply r s).cmdLo = s.cmdLo := rfl
@[simp] theorem reply_wave (r : BusReply) (s : State) : (reply r s).wave = s.wave := rfl
@[simp] theorem reply_responses (r : BusReply) (s : State) : (reply r s).responses = s.responses := rfl
@[simp] theorem reply_busReply (r : BusReply) (s : State) : (reply r s).busReply = r := rfl
@[simp] theorem reply_agenda (r : BusReply) (s : State) : (reply r s).agenda = s.agenda := rfl
@[simp] theorem reply_draws (r : BusReply) (s : State) : (reply r s).draws = s.draws := rfl

/-! `memWrite32` -/

@[simp] theorem memWrite32_build (a : Nat) (v : Word) (s : State) : (memWrite32 s a v).build = s.build := rfl
@[simp] theorem memWrite32_busy (a : Nat) (v : Word) (s : State) : (memWrite32 s a v).busy = s.busy := rfl
@[simp] theorem memWrite32_tcPending (a : Nat) (v : Word) (s : State) : (memWrite32 s a v).tcPending = s.tcPending := rfl
@[simp] theorem memWrite32_fault (a : Nat) (v : Word) (s : State) : (memWrite32 s a v).fault = s.fault := rfl
@[simp] theorem memWrite32_resp (a : Nat) (v : Word) (s : State) : (memWrite32 s a v).resp = s.resp := rfl
@[simp] theorem memWrite32_dmaEn (a : Nat) (v : Word) (s : State) : (memWrite32 s a v).dmaEn = s.dmaEn := rfl
@[simp] theorem memWrite32_dmaPtr (a : Nat) (v : Word) (s : State) : (memWrite32 s a v).dmaPtr = s.dmaPtr := rfl
@[simp] theorem memWrite32_dmaCnt (a : Nat) (v : Word) (s : State) : (memWrite32 s a v).dmaCnt = s.dmaCnt := rfl
@[simp] theorem memWrite32_tmrEn (a : Nat) (v : Word) (s : State) : (memWrite32 s a v).tmrEn = s.tmrEn := rfl
@[simp] theorem memWrite32_tmrCnt (a : Nat) (v : Word) (s : State) : (memWrite32 s a v).tmrCnt = s.tmrCnt := rfl
@[simp] theorem memWrite32_ccr (a : Nat) (v : Word) (s : State) : (memWrite32 s a v).ccr = s.ccr := rfl
@[simp] theorem memWrite32_cmdLo (a : Nat) (v : Word) (s : State) : (memWrite32 s a v).cmdLo = s.cmdLo := rfl
@[simp] theorem memWrite32_wave (a : Nat) (v : Word) (s : State) : (memWrite32 s a v).wave = s.wave := rfl
@[simp] theorem memWrite32_responses (a : Nat) (v : Word) (s : State) : (memWrite32 s a v).responses = s.responses := rfl
@[simp] theorem memWrite32_busReply (a : Nat) (v : Word) (s : State) : (memWrite32 s a v).busReply = s.busReply := rfl
@[simp] theorem memWrite32_agenda (a : Nat) (v : Word) (s : State) : (memWrite32 s a v).agenda = s.agenda := rfl
@[simp] theorem memWrite32_draws (a : Nat) (v : Word) (s : State) : (memWrite32 s a v).draws = s.draws := rfl

/-! `writeElem` -/

@[simp] theorem writeElem_build (k : Nat) (v : Word) (s : State) : (writeElem s k v).build = s.build := rfl
@[simp] theorem writeElem_busy (k : Nat) (v : Word) (s : State) : (writeElem s k v).busy = s.busy := rfl
@[simp] theorem writeElem_tcPending (k : Nat) (v : Word) (s : State) : (writeElem s k v).tcPending = s.tcPending := rfl
@[simp] theorem writeElem_fault (k : Nat) (v : Word) (s : State) : (writeElem s k v).fault = s.fault := rfl
@[simp] theorem writeElem_resp (k : Nat) (v : Word) (s : State) : (writeElem s k v).resp = s.resp := rfl
@[simp] theorem writeElem_dmaEn (k : Nat) (v : Word) (s : State) : (writeElem s k v).dmaEn = s.dmaEn := rfl
@[simp] theorem writeElem_dmaPtr (k : Nat) (v : Word) (s : State) : (writeElem s k v).dmaPtr = s.dmaPtr := rfl
@[simp] theorem writeElem_dmaCnt (k : Nat) (v : Word) (s : State) : (writeElem s k v).dmaCnt = s.dmaCnt := rfl
@[simp] theorem writeElem_tmrEn (k : Nat) (v : Word) (s : State) : (writeElem s k v).tmrEn = s.tmrEn := rfl
@[simp] theorem writeElem_tmrCnt (k : Nat) (v : Word) (s : State) : (writeElem s k v).tmrCnt = s.tmrCnt := rfl
@[simp] theorem writeElem_ccr (k : Nat) (v : Word) (s : State) : (writeElem s k v).ccr = s.ccr := rfl
@[simp] theorem writeElem_cmdLo (k : Nat) (v : Word) (s : State) : (writeElem s k v).cmdLo = s.cmdLo := rfl
@[simp] theorem writeElem_wave (k : Nat) (v : Word) (s : State) : (writeElem s k v).wave = s.wave := rfl
@[simp] theorem writeElem_responses (k : Nat) (v : Word) (s : State) : (writeElem s k v).responses = s.responses := rfl
@[simp] theorem writeElem_busReply (k : Nat) (v : Word) (s : State) : (writeElem s k v).busReply = s.busReply := rfl
@[simp] theorem writeElem_agenda (k : Nat) (v : Word) (s : State) : (writeElem s k v).agenda = s.agenda := rfl
@[simp] theorem writeElem_draws (k : Nat) (v : Word) (s : State) : (writeElem s k v).draws = s.draws := rfl

/-! `armFrame` -/

@[simp] theorem armFrame_build (s : State) : (armFrame s).build = s.build := rfl
@[simp] theorem armFrame_mem (s : State) : (armFrame s).mem = s.mem := rfl
@[simp] theorem armFrame_busy (s : State) : (armFrame s).busy = true := rfl
@[simp] theorem armFrame_tcPending (s : State) : (armFrame s).tcPending = s.tcPending := rfl
@[simp] theorem armFrame_fault (s : State) : (armFrame s).fault = s.fault := rfl
@[simp] theorem armFrame_resp (s : State) : (armFrame s).resp = s.resp := rfl
@[simp] theorem armFrame_dmaEn (s : State) : (armFrame s).dmaEn = true := rfl
@[simp] theorem armFrame_dmaPtr (s : State) : (armFrame s).dmaPtr = 0 := rfl
@[simp] theorem armFrame_dmaCnt (s : State) : (armFrame s).dmaCnt = BitVec.ofNat 16 s.build.frameLen := rfl
@[simp] theorem armFrame_tmrEn (s : State) : (armFrame s).tmrEn = true := rfl
@[simp] theorem armFrame_tmrCnt (s : State) : (armFrame s).tmrCnt = 0 := rfl
@[simp] theorem armFrame_ccr (s : State) : (armFrame s).ccr = s.ccr := rfl
@[simp] theorem armFrame_cmdLo (s : State) : (armFrame s).cmdLo = s.cmdLo := rfl
@[simp] theorem armFrame_wave (s : State) : (armFrame s).wave = s.wave := rfl
@[simp] theorem armFrame_responses (s : State) : (armFrame s).responses = s.responses := rfl
@[simp] theorem armFrame_busReply (s : State) : (armFrame s).busReply = s.busReply := rfl
@[simp] theorem armFrame_agenda (s : State) : (armFrame s).agenda = s.agenda := rfl
@[simp] theorem armFrame_draws (s : State) : (armFrame s).draws = s.draws := rfl

/-! `transferElement` -/

@[simp] theorem transferElement_build (s : State) : (transferElement s).build = s.build := rfl
@[simp] theorem transferElement_mem (s : State) : (transferElement s).mem = s.mem := rfl
@[simp] theorem transferElement_busy (s : State) : (transferElement s).busy = s.busy := rfl
@[simp] theorem transferElement_tcPending (s : State) : (transferElement s).tcPending = if s.dmaCnt - 1 = 0 then true else s.tcPending := rfl
@[simp] theorem transferElement_fault (s : State) : (transferElement s).fault = s.fault := rfl
@[simp] theorem transferElement_resp (s : State) : (transferElement s).resp = s.resp := rfl
@[simp] theorem transferElement_dmaEn (s : State) : (transferElement s).dmaEn = if s.dmaCnt - 1 = 0 then false else s.dmaEn := rfl
@[simp] theorem transferElement_dmaPtr (s : State) : (transferElement s).dmaPtr = s.dmaPtr + 1 := rfl
@[simp] theorem transferElement_dmaCnt (s : State) : (transferElement s).dmaCnt = s.dmaCnt - 1 := rfl
@[simp] theorem transferElement_tmrEn (s : State) : (transferElement s).tmrEn = s.tmrEn := rfl
@[simp] theorem transferElement_tmrCnt (s : State) : (transferElement s).tmrCnt = s.tmrCnt := rfl
@[simp] theorem transferElement_ccr (s : State) : (transferElement s).ccr = compareBits (readElem s s.dmaPtr.toNat) := rfl
@[simp] theorem transferElement_cmdLo (s : State) : (transferElement s).cmdLo = s.cmdLo := rfl
@[simp] theorem transferElement_wave (s : State) : (transferElement s).wave = s.wave ++ [.value (compareBits (readElem s s.dmaPtr.toNat))] := rfl
@[simp] theorem transferElement_responses (s : State) : (transferElement s).responses = s.responses := rfl
@[simp] theorem transferElement_busReply (s : State) : (transferElement s).busReply = s.busReply := rfl
@[simp] theorem transferElement_agenda (s : State) : (transferElement s).agenda = s.agenda := rfl
@[simp] theorem transferElement_draws (s : State) : (transferElement s).draws = s.draws := rfl

/-! `idlePeriod` -/

@[simp] theorem idlePeriod_build (s : State) : (idlePeriod s).build = s.build := rfl
@[simp] theorem idlePeriod_mem (s : State) : (idlePeriod s).mem = s.mem := rfl
@[simp] theorem idlePeriod_busy (s : State) : (idlePeriod s).busy = s.busy := rfl
@[simp] theorem idlePeriod_tcPending (s : State) : (idlePeriod s).tcPending = s.tcPending := rfl
@[simp] theorem idlePeriod_fault (s : State) : (idlePeriod s).fault = s.fault := rfl
@[simp] theorem idlePeriod_resp (s : State) : (idlePeriod s).resp = s.resp := rfl
@[simp] theorem idlePeriod_dmaEn (s : State) : (idlePeriod s).dmaEn = s.dmaEn := rfl
@[simp] theorem idlePeriod_dmaPtr (s : State) : (idlePeriod s).dmaPtr = s.dmaPtr := rfl
@[simp] theorem idlePeriod_dmaCnt (s : State) : (idlePeriod s).dmaCnt = s.dmaCnt := rfl
@[simp] theorem idlePeriod_tmrEn (s : State) : (idlePeriod s).tmrEn = s.tmrEn := rfl
@[simp] theorem idlePeriod_tmrCnt (s : State) : (idlePeriod s).tmrCnt = s.tmrCnt := rfl
@[simp] theorem idlePeriod_ccr (s : State) : (idlePeriod s).ccr = s.ccr := rfl
@[simp] theorem idlePeriod_cmdLo (s : State) : (idlePeriod s).cmdLo = s.cmdLo := rfl
@[simp] theorem idlePeriod_wave (s : State) : (idlePeriod s).wave = s.wave ++ [.value s.ccr] := rfl
@[simp] theorem idlePeriod_responses (s : State) : (idlePeriod s).responses = s.responses := rfl
@[simp] theorem idlePeriod_busReply (s : State) : (idlePeriod s).busReply = s.busReply := rfl
@[simp] theorem idlePeriod_agenda (s : State) : (idlePeriod s).agenda = s.agenda := rfl
@[simp] theorem idlePeriod_draws (s : State) : (idlePeriod s).draws = s.draws := rfl

/-! `completeFrame` -/

@[simp] theorem completeFrame_build (s : State) : (completeFrame s).build = s.build := rfl
@[simp] theorem completeFrame_mem (s : State) : (completeFrame s).mem = s.mem := rfl
@[simp] theorem completeFrame_busy (s : State) : (completeFrame s).busy = false := rfl
@[simp] theorem completeFrame_tcPending (s : State) : (completeFrame s).tcPending = false := rfl
@[simp] theorem completeFrame_fault (s : State) : (completeFrame s).fault = s.fault := rfl
@[simp] theorem completeFrame_resp (s : State) : (completeFrame s).resp = s.resp := rfl
@[simp] theorem completeFrame_dmaEn (s : State) : (completeFrame s).dmaEn = s.dmaEn := rfl
@[simp] theorem completeFrame_dmaPtr (s : State) : (completeFrame s).dmaPtr = s.dmaPtr := rfl
@[simp] theorem completeFrame_dmaCnt (s : State) : (completeFrame s).dmaCnt = s.dmaCnt := rfl
@[simp] theorem completeFrame_tmrEn (s : State) : (completeFrame s).tmrEn = false := rfl
@[simp] theorem completeFrame_tmrCnt (s : State) : (completeFrame s).tmrCnt = 0 := rfl
@[simp] theorem completeFrame_ccr (s : State) : (completeFrame s).ccr = s.ccr := rfl
@[simp] theorem completeFrame_cmdLo (s : State) : (completeFrame s).cmdLo = s.cmdLo := rfl
@[simp] theorem completeFrame_wave (s : State) : (completeFrame s).wave = s.wave := rfl
@[simp] theorem completeFrame_responses (s : State) : (completeFrame s).responses = s.responses := rfl
@[simp] theorem completeFrame_busReply (s : State) : (completeFrame s).busReply = s.busReply := rfl
@[simp] theorem completeFrame_agenda (s : State) : (completeFrame s).agenda = s.agenda := rfl
@[simp] theorem completeFrame_draws (s : State) : (completeFrame s).draws = s.draws := rfl

/-! `dmaError` -/

@[simp] theorem dmaError_build (s : State) : (dmaError s).build = s.build := rfl
@[simp] theorem dmaError_mem (s : State) : (dmaError s).mem = s.mem := rfl
@[simp] theorem dmaError_busy (s : State) : (dmaError s).busy = s.busy := rfl
@[simp] theorem dmaError_tcPending (s : State) : (dmaError s).tcPending = false := rfl
@[simp] theorem dmaError_fault (s : State) : (dmaError s).fault = true := rfl
@[simp] theorem dmaError_resp (s : State) : (dmaError s).resp = s.resp := rfl
@[simp] theorem dmaError_dmaEn (s : State) : (dmaError s).dmaEn = false := rfl
@[simp] theorem dmaError_dmaPtr (s : State) : (dmaError s).dmaPtr = s.dmaPtr := rfl
@[simp] theorem dmaError_dmaCnt (s : State) : (dmaError s).dmaCnt = s.dmaCnt := rfl
@[simp] theorem dmaError_tmrEn (s : State) : (dmaError s).tmrEn = false := rfl
@[simp] theorem dmaError_tmrCnt (s : State) : (dmaError s).tmrCnt = 0 := rfl
@[simp] theorem dmaError_ccr (s : State) : (dmaError s).ccr = s.ccr := rfl
@[simp] theorem dmaError_cmdLo (s : State) : (dmaError s).cmdLo = s.cmdLo := rfl
@[simp] theorem dmaError_wave (s : State) : (dmaError s).wave = s.wave := rfl
@[simp] theorem dmaError_responses (s : State) : (dmaError s).responses = s.responses := rfl
@[simp] theorem dmaError_busReply (s : State) : (dmaError s).busReply = s.busReply := rfl
@[simp] theorem dmaError_agenda (s : State) : (dmaError s).agenda = s.agenda := rfl
@[simp] theorem dmaError_draws (s : State) : (dmaError s).draws = s.draws := rfl

/-! `clearRegisters` -/

@[simp] theorem clearRegisters_build (s : State) : (clearRegisters s).build = s.build := rfl
@[simp] theorem clearRegisters_mem (s : State) : (clearRegisters s).mem = s.mem := rfl
@[simp] theorem clearRegisters_busy (s : State) : (clearRegisters s).busy = false := rfl
@[simp] theorem clearRegisters_tcPending (s : State) : (clearRegisters s).tcPending = false := rfl
@[simp] theorem clearRegisters_fault (s : State) : (clearRegisters s).fault = false := rfl
@[simp] theorem clearRegisters_resp (s : State) : (clearRegisters s).resp = 0 := rfl
@[simp] theorem clearRegisters_dmaEn (s : State) : (clearRegisters s).dmaEn = false := rfl
@[simp] theorem clearRegisters_dmaPtr (s : State) : (clearRegisters s).dmaPtr = 0 := rfl
@[simp] theorem clearRegisters_dmaCnt (s : State) : (clearRegisters s).dmaCnt = 0 := rfl
@[simp] theorem clearRegisters_tmrEn (s : State) : (clearRegisters s).tmrEn = false := rfl
@[simp] theorem clearRegisters_tmrCnt (s : State) : (clearRegisters s).tmrCnt = 0 := rfl
@[simp] theorem clearRegisters_ccr (s : State) : (clearRegisters s).ccr = 0 := rfl
@[simp] theorem clearRegisters_cmdLo (s : State) : (clearRegisters s).cmdLo = 0 := rfl
@[simp] theorem clearRegisters_wave (s : State) : (clearRegisters s).wave = s.wave := rfl
@[simp] theorem clearRegisters_responses (s : State) : (clearRegisters s).responses = s.responses := rfl
@[simp] theorem clearRegisters_busReply (s : State) : (clearRegisters s).busReply = s.busReply := rfl
@[simp] theorem clearRegisters_agenda (s : State) : (clearRegisters s).agenda = s.agenda := rfl
@[simp] theorem clearRegisters_draws (s : State) : (clearRegisters s).draws = s.draws := rfl

end Sys2Proof.Machine
end

