-- ==== Sys2Proof/Laws/Elements.lean ====
section
/-! SUPPORT. The laws of frame-buffer elements: reading after writing one, and after filling a range of them. -/

namespace Sys2Proof.Machine

theorem bytes_append (v : Word) : byteOf v 3 ++ byteOf v 2 ++ byteOf v 1 ++ byteOf v 0 = v := by
  apply BitVec.eq_of_getLsbD_eq
  intro i hi
  simp only [byteOf, BitVec.getLsbD_append, BitVec.getLsbD_extractLsb']
  rcases Nat.lt_or_ge i 8 with h0 | h0
  · simp [h0]
  · rcases Nat.lt_or_ge i 16 with h1 | h1
    · have : i - 8 < 8 := by omega
      have e : 8 + (i - 8) = i := by omega
      simp [this, e, Nat.not_lt.mpr h0]
    · rcases Nat.lt_or_ge i 24 with h2 | h2
      · have a : ¬ i - 8 < 8 := by omega
        have b : i - 8 - 8 < 8 := by omega
        have e : 16 + (i - 8 - 8) = i := by omega
        simp [a, b, e, Nat.not_lt.mpr h0]
      · have a : ¬ i - 8 < 8 := by omega
        have b : ¬ i - 8 - 8 < 8 := by omega
        have c : i - 8 - 8 - 8 < 8 := by omega
        have e : 24 + (i - 8 - 8 - 8) = i := by omega
        simp [a, b, c, e, Nat.not_lt.mpr h0]

/-- A byte outside the four that a 32-bit write stores reads as before. -/
theorem readByte_memWrite32_other (s : State) {a x : Nat} (v : Word) (h : ¬ (a ≤ x ∧ x < a + 4)) :
    readByte (memWrite32 s a v) x = readByte s x := by
  simp only [readByte, memWrite32]
  rw [read_write_other _ _ _ (by omega), read_write_other _ _ _ (by omega), read_write_other _ _ _ (by omega),
    read_write_other _ _ _ (by omega)]

/-- Byte `j` of a 32-bit write is byte `j` of its value (R56). -/
theorem readByte_memWrite32_self (s : State) (a : Nat) (v : Word) {j : Nat} (hj : j < 4) :
    readByte (memWrite32 s a v) (a + j) = byteOf v j := by
  simp only [readByte, memWrite32]
  match j, hj with
  | 0, _ =>
    rw [read_write_other _ _ _ (by omega), read_write_other _ _ _ (by omega), read_write_other _ _ _ (by omega)]
    exact read_write_self ..
  | 1, _ =>
    rw [read_write_other _ _ _ (by omega), read_write_other _ _ _ (by omega)]
    exact read_write_self ..
  | 2, _ =>
    rw [read_write_other _ _ _ (by omega)]
    exact read_write_self ..
  | 3, _ => exact read_write_self ..

/-- A 32-bit read after a 32-bit write of the same address. -/
theorem memRead32_memWrite32_self (s : State) (a : Nat) (v : Word) : memRead32 (memWrite32 s a v) a = v := by
  have h0 : readByte (memWrite32 s a v) a = byteOf v 0 := readByte_memWrite32_self s a v (j := 0) (by omega)
  simp only [memRead32, h0, readByte_memWrite32_self s a v (j := 1) (by omega),
    readByte_memWrite32_self s a v (j := 2) (by omega), readByte_memWrite32_self s a v (j := 3) (by omega)]
  exact bytes_append v

/-- Elements agree where the bytes of both states agree. -/
theorem memRead32_congr {s t : State} {a : Nat} (h : ∀ j, j < 4 → readByte t (a + j) = readByte s (a + j)) :
    memRead32 t a = memRead32 s a := by
  have h0 := h 0 (by omega)
  simp only [Nat.add_zero] at h0
  simp only [memRead32, h0, h 1 (by omega), h 2 (by omega), h 3 (by omega)]

@[simp] theorem readElem_writeElem_self (s : State) (k : Nat) (v : Word) : readElem (writeElem s k v) k = v :=
  memRead32_memWrite32_self s _ v

theorem readElem_writeElem_other (s : State) {k l : Nat} (v : Word) (h : l ≠ k) :
    readElem (writeElem s k v) l = readElem s l := by
  refine memRead32_congr (fun j hj => ?_)
  exact readByte_memWrite32_other s v (by simp only [slotAddr, writeElem_build]; omega)

theorem readByte_writeElem_other (s : State) {k x : Nat} (v : Word)
    (h : ¬ (slotAddr s.build k ≤ x ∧ x < slotAddr s.build k + 4)) : readByte (writeElem s k v) x = readByte s x :=
  readByte_memWrite32_other s v h

/-- Writing an element of the frame buffer keeps the canonical form. -/
theorem wf_writeElem (s : State) {k : Nat} (v : Word) (hk : k < s.build.frameLen)
    (h : Memory.wf s.build s.mem = true) : Memory.wf (writeElem s k v).build (writeElem s k v).mem = true := by
  have hin : ∀ j, j < 4 → Memory.inSpace s.build (slotAddr s.build k + j) = true := by
    intro j hj
    simp only [Memory.inSpace, Bool.and_eq_true, decide_eq_true_eq]
    simp only [slotAddr]
    omega
  have h0 := hin 0 (by omega)
  simp only [Nat.add_zero] at h0
  simp only [writeElem_build]
  simp only [writeElem, memWrite32]
  exact wf_write _ _ _ _ (wf_write _ _ _ _ (wf_write _ _ _ _ (wf_write _ _ _ _ h h0) (hin 1 (by omega)))
    (hin 2 (by omega))) (hin 3 (by omega))

/-! Filling a range changes the memory alone. -/

/-- A range fill is its state with another memory. -/
theorem fillElems_eq (f : Nat → Word) (start count : Nat) (s : State) :
    fillElems f start count s = { s with mem := (fillElems f start count s).mem } := by
  induction count generalizing start s with
  | zero => rfl
  | succ n ih =>
    simp only [fillElems]
    conv_lhs => rw [ih]
    rfl

@[simp] theorem fillElems_build (f : Nat → Word) (start count : Nat) (s : State) :
    (fillElems f start count s).build = s.build := by rw [fillElems_eq]

theorem readByte_fillElems_other (f : Nat → Word) (start count : Nat) (s : State) {x : Nat}
    (h : ¬ (slotAddr s.build start ≤ x ∧ x < slotAddr s.build (start + count))) :
    readByte (fillElems f start count s) x = readByte s x := by
  induction count generalizing start s with
  | zero => rfl
  | succ n ih =>
    simp only [slotAddr] at h
    simp only [fillElems]
    rw [ih _ _ (by simp only [slotAddr, writeElem_build]; omega),
      readByte_writeElem_other _ _ (by simp only [slotAddr]; omega)]

theorem readElem_fillElems_other (f : Nat → Word) (start count : Nat) (s : State) {k : Nat}
    (h : ¬ (start ≤ k ∧ k < start + count)) : readElem (fillElems f start count s) k = readElem s k := by
  refine memRead32_congr (fun j hj => ?_) |>.trans (by rw [fillElems_build]; rfl)
  exact readByte_fillElems_other f start count s (by simp only [slotAddr, fillElems_build]; omega)

theorem readElem_fillElems (f : Nat → Word) (start count : Nat) (s : State) {k : Nat}
    (h : start ≤ k ∧ k < start + count) : readElem (fillElems f start count s) k = f k := by
  induction count generalizing start s with
  | zero => omega
  | succ n ih =>
    simp only [fillElems]
    by_cases hk : k = start
    · subst hk
      rw [readElem_fillElems_other _ _ _ _ (by omega), readElem_writeElem_self]
    · exact ih _ _ (by omega)

theorem wf_fillElems (f : Nat → Word) (start count : Nat) (s : State) (hr : start + count ≤ s.build.frameLen)
    (h : Memory.wf s.build s.mem = true) :
    Memory.wf s.build (fillElems f start count s).mem = true := by
  induction count generalizing start s with
  | zero => exact h
  | succ n ih =>
    simp only [fillElems]
    have := ih (start + 1) (writeElem s start (f start)) (by simp only [writeElem_build]; omega)
      (wf_writeElem s _ (by omega) h)
    simpa using this

end Sys2Proof.Machine
end

