-- ==== Sys2Proof/Laws/Agents.lean ====
section
/-! SUPPORT. What each step can do, said once: the meanings as equations, the shape every command leaves, and the cases
of an event that answers a next state. -/

namespace Sys2Proof.Machine

/-! The commands. -/

/-- SET_PIXEL answers a next state in every case, by the three checks of R116. -/
theorem execSetPixel_eq (index : BitVec 16) (bright red green blue : Byte) (s : State) :
    execSetPixel index bright red green blue s = .next (
      if s.build.n ≤ index.toNat ∨ 100 < bright.toNat then respond .invalidParameter s
      else if s.busy then respond .deviceBusy s
      else respond .ok (writePixel index.toNat (packedWord bright red green blue) s)) := by
  unfold execSetPixel finishIssue setPixel
  by_cases h1 : s.build.n ≤ index.toNat
  · simp [h1]
  · by_cases h2 : 100 < bright.toNat
    · simp [h1, h2]
    · by_cases h3 : s.busy = true
      · simp [h1, h2, h3]
      · simp [h1, h2, h3]

/-- SUBMIT_FRAME answers a next state: refused while busy, else armed (R140, R142). -/
theorem execSubmitFrame_eq (s : State) :
    execSubmitFrame s = .next (if s.busy then respond .deviceBusy s else respond .ok (armFrame s)) := by
  unfold execSubmitFrame finishIssue submitFrame
  by_cases h : s.busy = true <;> simp [h]

/-- QUERY_BUSY answers a next state, changed in its response alone (R143). -/
theorem execQueryBusy_eq (s : State) : execQueryBusy s = .next (respond .ok s) := rfl

/-- What a command can leave: a response alone, an armed frame from an idle controller, or a written pixel from an idle
controller. -/
theorem exec_cases {i : Instr} {s t : State} (h : exec i s = .next t) :
    (∃ st, t = respond st s) ∨
    (s.busy = false ∧ i = .submitFrame ∧ t = respond .ok (armFrame s)) ∨
    (s.busy = false ∧ ∃ index bright red green blue, i = .setPixel index bright red green blue ∧
      index.toNat < s.build.n ∧ bright.toNat ≤ 100 ∧
      t = respond .ok (writePixel index.toNat (packedWord bright red green blue) s)) := by
  cases i with
  | setPixel index bright red green blue =>
    simp only [exec, execSetPixel_eq, Host.Outcome.next.injEq] at h
    by_cases h1 : s.build.n ≤ index.toNat ∨ 100 < bright.toNat
    · rw [if_pos h1] at h
      exact .inl ⟨_, h.symm⟩
    · rw [if_neg h1] at h
      by_cases h2 : s.busy = true
      · rw [if_pos h2] at h
        exact .inl ⟨_, h.symm⟩
      · rw [if_neg h2] at h
        exact .inr (.inr ⟨by simpa using h2, index, bright, red, green, blue, rfl, by omega, by omega, h.symm⟩)
  | submitFrame =>
    simp only [exec, execSubmitFrame_eq, Host.Outcome.next.injEq] at h
    by_cases h2 : s.busy = true
    · rw [if_pos h2] at h
      exact .inl ⟨_, h.symm⟩
    · rw [if_neg h2] at h
      exact .inr (.inl ⟨by simpa using h2, rfl, h.symm⟩)
  | queryBusy =>
    simp only [exec, execQueryBusy_eq, Host.Outcome.next.injEq] at h
    exact .inl ⟨_, h.symm⟩

/-- What an Issue step can leave (R80): as a command, or a response alone for an illegal word. -/
theorem issue_cases {w : Command} {s t : State} (h : issue w s = .next t) :
    (∃ st, t = respond st s) ∨
    (s.busy = false ∧ t = respond .ok (armFrame s)) ∨
    (s.busy = false ∧ ∃ (index : BitVec 16) (bright red green blue : Byte), index.toNat < s.build.n ∧
      t = respond .ok (writePixel index.toNat (packedWord bright red green blue) s)) := by
  unfold issue at h
  split at h
  · rcases exec_cases h with h | ⟨h1, -, h2⟩ | ⟨h1, index, bright, red, green, blue, -, hi, -, h2⟩
    · exact .inl h
    · exact .inr (.inl ⟨h1, h2⟩)
    · exact .inr (.inr ⟨h1, index, bright, red, green, blue, hi, h2⟩)
  · simp only [finishIssue, Host.Outcome.next.injEq] at h
    exact .inl ⟨_, h.symm⟩

/-- Every Issue step answers a next state: no command traps (R180). -/
theorem issue_next (w : Command) (s : State) : ∃ t, issue w s = .next t := by
  unfold issue
  split
  · next i _ =>
    cases i with
    | setPixel index bright red green blue => exact ⟨_, execSetPixel_eq ..⟩
    | submitFrame => exact ⟨_, execSubmitFrame_eq s⟩
    | queryBusy => exact ⟨_, execQueryBusy_eq s⟩
  · exact ⟨_, rfl⟩

/-- A scheduled Issue is always enabled (R192). -/
@[simp] theorem takeEvent_issue (w : Command) (s : State) : takeEvent (.issue w) s = issue w s := rfl

/-- Issuing a word that decodes to a command runs that command (R80). -/
theorem issue_command {w : Command} {i : Instr} (h : decode w = .command i) (s : State) : issue w s = exec i s := by
  unfold issue
  rw [h]

/-- Issuing an illegal word leaves a response alone (R87). -/
theorem issue_illegal {w : Command} {why : Illegal} (h : decode w = .illegal why) (s : State) :
    issue w s = .next (respond .illegalCommand s) := by
  unfold issue
  rw [h]
  rfl

/-! The host's accesses. -/

/-- The one access that issues a command is a 32-bit write of offset 0x04 (R39, R92). -/
theorem eq_cmdHi_of_windowReg {b : Build} {addr bytes : Nat} (h : aligned32 b addr bytes = true)
    (hr : windowReg (addr - b.mmioBase) = .cmdHi) : addr = b.mmioBase + 4 ∧ bytes = 4 := by
  simp only [aligned32, Bool.and_eq_true, beq_iff_eq, decide_eq_true_eq] at h
  have : addr - b.mmioBase = 4 := by
    unfold windowReg at hr
    repeat' split at hr
    all_goals first | assumption | cases hr
  omega

/-- What an access that answers a next state can leave: an answer alone, a new CMD_LO, or, by a write of CMD_HI, an Issue
step (R60, R62, R92). -/
theorem hostAccess_cases {a : BusAccess} {s t : State} (h : hostAccess a s = .next t) :
    (∃ r, t = reply r s) ∨ (∃ v, t = reply .done { s with cmdLo := v }) ∨
    (∃ (v : Word) (u : State), a = .write (s.build.mmioBase + 4) 4 v ∧ issue (v ++ s.cmdLo) s = .next u ∧
      t = reply .done u) := by
  unfold hostAccess at h
  split at h
  · cases a with
    | read addr bytes =>
      simp only [windowAccess] at h
      split at h <;> exact .inl ⟨_, (Host.Outcome.next.inj h).symm⟩
    | write addr bytes v =>
      simp only [windowAccess] at h
      split at h
      · next hal =>
        generalize hr : windowReg (addr - s.build.mmioBase) = r at h
        cases r with
        | cmdLo => exact .inr (.inl ⟨v, (Host.Outcome.next.inj h).symm⟩)
        | cmdHi =>
          obtain ⟨u, hu⟩ := issue_next (v ++ s.cmdLo) s
          simp only [windowWrite, hu, replyOn] at h
          obtain ⟨h1, h2⟩ := eq_cmdHi_of_windowReg hal hr
          exact .inr (.inr ⟨v, u, by rw [h1, h2], hu, (Host.Outcome.next.inj h).symm⟩)
        | resp => exact .inl ⟨_, (Host.Outcome.next.inj h).symm⟩
        | status => exact .inl ⟨_, (Host.Outcome.next.inj h).symm⟩
        | cfgN => exact .inl ⟨_, (Host.Outcome.next.inj h).symm⟩
        | cfgR => exact .inl ⟨_, (Host.Outcome.next.inj h).symm⟩
        | cfgCode1 => exact .inl ⟨_, (Host.Outcome.next.inj h).symm⟩
        | cfgCode0 => exact .inl ⟨_, (Host.Outcome.next.inj h).symm⟩
        | cfgResetCode => exact .inl ⟨_, (Host.Outcome.next.inj h).symm⟩
        | cfgPeriod => exact .inl ⟨_, (Host.Outcome.next.inj h).symm⟩
        | reserved => exact .inl ⟨_, (Host.Outcome.next.inj h).symm⟩
      · exact .inl ⟨_, (Host.Outcome.next.inj h).symm⟩
  · split at h
    · simp at h
    · split at h <;> simp at h

/-! The hardware's steps. -/

/-- UPDATE answers a next state exactly when its element exists. -/
theorem updateStep_cases {s t : State} (h : updateStep s = .next t) :
    s.dmaPtr.toNat < s.build.frameLen ∧ t = transferElement s := by
  unfold updateStep at h
  split at h
  · next hlt => exact ⟨hlt, (Host.Outcome.next.inj h).symm⟩
  · simp at h

/-- What a scheduled event that answers a next state can do, by agent (R6). -/
theorem takeEvent_cases {e : Event} {s t : State} (h : takeEvent e s = .next t) :
    (enabled e s = false ∧ t = s) ∨
    (∃ w, e = .issue w ∧ issue w s = .next t) ∨
    (∃ a, e = .access a ∧ hostAccess a s = .next t) ∨
    (e = .update ∧ updateEnabled s = true ∧ s.dmaPtr.toNat < s.build.frameLen ∧ t = transferElement s) ∨
    (e = .idlePeriod ∧ idlePeriodEnabled s = true ∧ t = idlePeriod s) ∨
    (e = .complete ∧ s.tcPending = true ∧ t = completeFrame s) ∨
    (e = .dmaError ∧ s.dmaEn = true ∧ t = dmaError s) ∨
    (e = .reset ∧ t = resetStep s) := by
  unfold takeEvent at h
  by_cases he : enabled e s = true
  · rw [if_pos he] at h
    cases e with
    | issue w => exact .inr (.inl ⟨w, rfl, h⟩)
    | access a => exact .inr (.inr (.inl ⟨a, rfl, h⟩))
    | update =>
      obtain ⟨h1, h2⟩ := updateStep_cases h
      exact .inr (.inr (.inr (.inl ⟨rfl, he, h1, h2⟩)))
    | idlePeriod => exact .inr (.inr (.inr (.inr (.inl ⟨rfl, he, (Host.Outcome.next.inj h).symm⟩))))
    | complete => exact .inr (.inr (.inr (.inr (.inr (.inl ⟨rfl, he, (Host.Outcome.next.inj h).symm⟩)))))
    | dmaError => exact .inr (.inr (.inr (.inr (.inr (.inr (.inl ⟨rfl, he, (Host.Outcome.next.inj h).symm⟩))))))
    | reset => exact .inr (.inr (.inr (.inr (.inr (.inr (.inr ⟨rfl, (Host.Outcome.next.inj h).symm⟩))))))
  · rw [if_neg he] at h
    exact .inl ⟨by simpa using he, (Host.Outcome.next.inj h).symm⟩

/-- The state in which the schedule's next event is taken differs from the state before in the schedule alone. -/
theorem nextEvent_state (s : State) :
    ∃ agenda draws, (nextEvent s).2 = { s with agenda := agenda, draws := draws } := by
  unfold nextEvent
  split
  · exact ⟨_, s.draws, rfl⟩
  · exact ⟨s.agenda, _, rfl⟩

/-- A step that answers a next state takes the schedule's next event in a valid build. -/
theorem step_cases {s t : State} (h : step s = .next t) :
    s.build.valid = true ∧ takeEvent (nextEvent s).1 (nextEvent s).2 = .next t := by
  unfold step at h
  split at h
  · next hv => exact ⟨hv, h⟩
  · simp at h

/-- RESET is the cleared registers, the refilled frame buffer and the marker, whatever the order of its writes. -/
theorem resetStep_eq (s : State) :
    resetStep s = { clearRegisters s with mem := (resetStep s).mem, wave := s.wave ++ [.rst] } := by
  unfold resetStep
  simp only [encodeReset]
  rw [fillElems_eq]
  simp only [clearPixels]
  rw [fillElems_eq _ _ _ (clearRegisters s)]
  rfl

/-- A written pixel is its state with another memory. -/
theorem writePixel_eq (i : Nat) (w : BitVec 24) (s : State) :
    writePixel i w s = { s with mem := (writePixel i w s).mem } := fillElems_eq ..

/-! Every field but the memory, of a written pixel and of RESET. -/

@[simp] theorem writePixel_build (i : Nat) (w : BitVec 24) (s : State) : (writePixel i w s).build = s.build := by
  rw [writePixel_eq]

@[simp] theorem writePixel_busy (i : Nat) (w : BitVec 24) (s : State) : (writePixel i w s).busy = s.busy := by
  rw [writePixel_eq]

@[simp] theorem writePixel_tcPending (i : Nat) (w : BitVec 24) (s : State) : (writePixel i w s).tcPending = s.tcPending := by
  rw [writePixel_eq]

@[simp] theorem writePixel_fault (i : Nat) (w : BitVec 24) (s : State) : (writePixel i w s).fault = s.fault := by
  rw [writePixel_eq]

@[simp] theorem writePixel_resp (i : Nat) (w : BitVec 24) (s : State) : (writePixel i w s).resp = s.resp := by
  rw [writePixel_eq]

@[simp] theorem writePixel_dmaEn (i : Nat) (w : BitVec 24) (s : State) : (writePixel i w s).dmaEn = s.dmaEn := by
  rw [writePixel_eq]

@[simp] theorem writePixel_dmaPtr (i : Nat) (w : BitVec 24) (s : State) : (writePixel i w s).dmaPtr = s.dmaPtr := by
  rw [writePixel_eq]

@[simp] theorem writePixel_dmaCnt (i : Nat) (w : BitVec 24) (s : State) : (writePixel i w s).dmaCnt = s.dmaCnt := by
  rw [writePixel_eq]

@[simp] theorem writePixel_tmrEn (i : Nat) (w : BitVec 24) (s : State) : (writePixel i w s).tmrEn = s.tmrEn := by
  rw [writePixel_eq]

@[simp] theorem writePixel_tmrCnt (i : Nat) (w : BitVec 24) (s : State) : (writePixel i w s).tmrCnt = s.tmrCnt := by
  rw [writePixel_eq]

@[simp] theorem writePixel_ccr (i : Nat) (w : BitVec 24) (s : State) : (writePixel i w s).ccr = s.ccr := by
  rw [writePixel_eq]

@[simp] theorem writePixel_cmdLo (i : Nat) (w : BitVec 24) (s : State) : (writePixel i w s).cmdLo = s.cmdLo := by
  rw [writePixel_eq]

@[simp] theorem writePixel_wave (i : Nat) (w : BitVec 24) (s : State) : (writePixel i w s).wave = s.wave := by
  rw [writePixel_eq]

@[simp] theorem writePixel_responses (i : Nat) (w : BitVec 24) (s : State) : (writePixel i w s).responses = s.responses := by
  rw [writePixel_eq]

@[simp] theorem writePixel_busReply (i : Nat) (w : BitVec 24) (s : State) : (writePixel i w s).busReply = s.busReply := by
  rw [writePixel_eq]

@[simp] theorem writePixel_agenda (i : Nat) (w : BitVec 24) (s : State) : (writePixel i w s).agenda = s.agenda := by
  rw [writePixel_eq]

@[simp] theorem writePixel_draws (i : Nat) (w : BitVec 24) (s : State) : (writePixel i w s).draws = s.draws := by
  rw [writePixel_eq]

@[simp] theorem resetStep_build (s : State) : (resetStep s).build = s.build := by
  rw [resetStep_eq]
  rfl

@[simp] theorem resetStep_busy (s : State) : (resetStep s).busy = false := by
  rw [resetStep_eq]
  rfl

@[simp] theorem resetStep_tcPending (s : State) : (resetStep s).tcPending = false := by
  rw [resetStep_eq]
  rfl

@[simp] theorem resetStep_fault (s : State) : (resetStep s).fault = false := by
  rw [resetStep_eq]
  rfl

@[simp] theorem resetStep_resp (s : State) : (resetStep s).resp = 0 := by
  rw [resetStep_eq]
  rfl

@[simp] theorem resetStep_dmaEn (s : State) : (resetStep s).dmaEn = false := by
  rw [resetStep_eq]
  rfl

@[simp] theorem resetStep_dmaPtr (s : State) : (resetStep s).dmaPtr = 0 := by
  rw [resetStep_eq]
  rfl

@[simp] theorem resetStep_dmaCnt (s : State) : (resetStep s).dmaCnt = 0 := by
  rw [resetStep_eq]
  rfl

@[simp] theorem resetStep_tmrEn (s : State) : (resetStep s).tmrEn = false := by
  rw [resetStep_eq]
  rfl

@[simp] theorem resetStep_tmrCnt (s : State) : (resetStep s).tmrCnt = 0 := by
  rw [resetStep_eq]
  rfl

@[simp] theorem resetStep_ccr (s : State) : (resetStep s).ccr = 0 := by
  rw [resetStep_eq]
  rfl

@[simp] theorem resetStep_cmdLo (s : State) : (resetStep s).cmdLo = 0 := by
  rw [resetStep_eq]
  rfl

@[simp] theorem resetStep_wave (s : State) : (resetStep s).wave = s.wave ++ [.rst] := by
  rw [resetStep_eq]

@[simp] theorem resetStep_responses (s : State) : (resetStep s).responses = s.responses := by
  rw [resetStep_eq]
  rfl

@[simp] theorem resetStep_busReply (s : State) : (resetStep s).busReply = s.busReply := by
  rw [resetStep_eq]
  rfl

@[simp] theorem resetStep_agenda (s : State) : (resetStep s).agenda = s.agenda := by
  rw [resetStep_eq]
  rfl

@[simp] theorem resetStep_draws (s : State) : (resetStep s).draws = s.draws := by
  rw [resetStep_eq]
  rfl


/-! Reads of a state that differs from another in no memory byte. -/

@[simp] theorem readByte_respond (st : Status) (s : State) (a : Nat) : readByte (respond st s) a = readByte s a := rfl
@[simp] theorem readElem_respond (st : Status) (s : State) (k : Nat) : readElem (respond st s) k = readElem s k := rfl

/-- The 24 slots of a written pixel (R114). -/
theorem readElem_writePixel (i : Nat) (w : BitVec 24) (s : State) {j : Nat} (hj : j < 24) :
    readElem (writePixel i w s) (24 * i + j) = slotCode s.build w j := by
  unfold writePixel
  rw [readElem_fillElems _ _ _ _ (by omega)]
  congr 1
  omega

/-- Every element outside a written pixel reads as before (R119). -/
theorem readElem_writePixel_other (i : Nat) (w : BitVec 24) (s : State) {k : Nat}
    (h : ¬ (24 * i ≤ k ∧ k < 24 * i + 24)) : readElem (writePixel i w s) k = readElem s k :=
  readElem_fillElems_other _ _ _ _ h

/-- Every byte outside a written pixel reads as before (R119). -/
theorem readByte_writePixel_other (i : Nat) (w : BitVec 24) (s : State) {a : Nat}
    (h : ¬ (slotAddr s.build (24 * i) ≤ a ∧ a < slotAddr s.build (24 * i) + 96)) :
    readByte (writePixel i w s) a = readByte s a :=
  readByte_fillElems_other _ _ _ _ (by simp only [slotAddr] at h ⊢; omega)

/-- The elements RESET leaves: the reset contents of every slot (R48, R220). -/
theorem readElem_resetStep (s : State) {k : Nat} (hk : k < s.build.frameLen) :
    readElem (resetStep s) k = resetElem s.build k := by
  have hp : s.build.pixelSlots ≤ s.build.frameLen := by simp only [Build.pixelSlots, Build.frameLen]; omega
  have : readElem (resetStep s) k = readElem (encodeReset (clearPixels (clearRegisters s))) k := rfl
  rw [this]
  unfold encodeReset resetElem
  by_cases h : k < s.build.pixelSlots
  · rw [if_pos h, readElem_fillElems_other _ _ _ _ (by simp only [clearPixels, fillElems_build, clearRegisters_build]; omega)]
    simp only [clearPixels, clearRegisters_build]
    exact readElem_fillElems _ _ _ _ (by omega)
  · rw [if_neg h]
    exact readElem_fillElems _ _ _ _ (by simp only [clearPixels, fillElems_build, clearRegisters_build]; omega)

/-! Every operation on the frame buffer keeps the memory's canonical form (log 8). -/

theorem wf_writePixel {i : Nat} (w : BitVec 24) {s : State} (hi : i < s.build.n) (h : Memory.wf s.build s.mem = true) :
    Memory.wf s.build (writePixel i w s).mem = true :=
  wf_fillElems _ _ _ _ (by simp only [Build.frameLen]; omega) h

theorem wf_clearPixels {s : State} (h : Memory.wf s.build s.mem = true) :
    Memory.wf s.build (clearPixels s).mem = true :=
  wf_fillElems _ _ _ _ (by simp only [Build.frameLen, Build.pixelSlots]; omega) h

theorem wf_encodeReset {s : State} (h : Memory.wf s.build s.mem = true) :
    Memory.wf s.build (encodeReset s).mem = true :=
  wf_fillElems _ _ _ _ (by simp only [Build.frameLen, Build.pixelSlots]; omega) h

theorem wf_resetStep {s : State} (h : Memory.wf s.build s.mem = true) :
    Memory.wf s.build (resetStep s).mem = true := by
  have h1 : Memory.wf (clearRegisters s).build (clearRegisters s).mem = true := h
  have h2 := wf_clearPixels h1
  have hb : (clearPixels (clearRegisters s)).build = s.build := fillElems_build ..
  have h3 := wf_encodeReset (s := clearPixels (clearRegisters s)) (by rw [hb]; exact h2)
  rw [hb] at h3
  exact h3

end Sys2Proof.Machine
end

