-- ==== Sys2Proof/Laws/PerInstr.lean ====
section
/-! SUPPORT. The per-instruction family EncodesToRow: every instruction's word belongs to its row of the opcode map (R85). -/

namespace Sys2Proof.Laws.EncodesToRow

/-- The word of an instruction is selected by the instruction's row of R85. -/
def Statement (i : Instr) : Prop := i.row.selects (encode i) = true

theorem setPixel (index : BitVec 16) (bright red green blue : Byte) :
    Statement (.setPixel index bright red green blue) := by
  simp only [Statement, Instr.row, OpcodeRow.selects, rowSetPixel, encode, beq_iff_eq]
  apply BitVec.eq_of_getLsbD_eq
  intro k hk
  simp only [BitVec.getLsbD_and, BitVec.getLsbD_append]
  interval_cases k <;> simp

theorem submitFrame : Statement .submitFrame := by
  unfold Statement
  decide

theorem queryBusy : Statement .queryBusy := by
  unfold Statement
  decide

end Sys2Proof.Laws.EncodesToRow
end

