-- ==== Sys2Proof/Laws/Pin.lean ====
section
/-! SUPPORT. The tick level: when the start event comes, what a tick can do, and how ticks add up. -/

namespace Sys2Proof.Machine

@[simp] theorem takeStartEvent_of_not_due {s : State} (h : startEventDue s = false) : takeStartEvent s = .next s := by
  simp [takeStartEvent, h]

/-- Where it is due and the count has an element, the start event is the UPDATE of `FB[0]` (R148). -/
theorem takeStartEvent_of_due {s : State} (h : startEventDue s = true) (hc : 1 ≤ s.dmaCnt.toNat)
    (hm : 0 < s.build.frameLen) : takeStartEvent s = .next (transferElement s) := by
  simp only [startEventDue, Bool.and_eq_true, beq_iff_eq] at h
  obtain ⟨⟨h1, h2⟩, h3⟩ := h
  simp [takeStartEvent, startEventDue, timerEvent, updateEnabled, updateStep, h1, h2, h3, hc, hm]

/-- After an UPDATE that did not wrap DMA_PTR no start event is due, so it comes once. -/
theorem not_due_transferElement {s : State} (h : s.dmaPtr.toNat < 65535) : startEventDue (transferElement s) = false := by
  have hp : ((s.dmaPtr + 1) == (0 : Half)) = false := by
    rw [beq_eq_false_iff_ne]
    intro he
    have := congrArg BitVec.toNat he
    rw [BitVec.toNat_add] at this
    simp at this
    omega
  unfold startEventDue
  rw [transferElement_dmaPtr, hp, Bool.and_false]

/-- A tick is the first of `timerTicks`. -/
theorem timerTicks_one (s : State) : timerTicks 1 s = timerTick s := rfl

/-- One tick more counts from the state that the ticks before it leave. -/
theorem timerTicks_succ {k : Nat} {s t : State} (h : timerTicks k s = .next t) : timerTicks (k + 1) s = countTick t := by
  rw [timerTicks, h]

/-- Ticks after a start event that is due are ticks from the state it leaves. -/
theorem timerTicks_of_takeStartEvent {s t : State} (h : takeStartEvent s = .next t) (ht : startEventDue t = false) (k : Nat) :
    timerTicks k s = timerTicks k t := by
  induction k with
  | zero => rw [timerTicks, timerTicks, h, takeStartEvent_of_not_due ht]
  | succ k ih => rw [timerTicks, timerTicks, ih]

/-- What a counted tick that answers a next state can do: nothing while the timer is stopped, count, or wrap with the
timer's event (R145, R154). -/
theorem countTick_cases {s t : State} (h : countTick s = .next t) :
    (s.tmrEn = false ∧ t = s) ∨
    (s.tmrEn = true ∧ s.tmrCnt.toNat + 1 < s.build.periodTicks ∧ t = { s with tmrCnt := s.tmrCnt + 1 }) ∨
    (s.tmrEn = true ∧ s.build.periodTicks ≤ s.tmrCnt.toNat + 1 ∧ timerEvent { s with tmrCnt := 0 } = .next t) := by
  unfold countTick at h
  split at h
  · next he =>
    split at h
    · next hl => exact .inr (.inl ⟨he, hl, (Host.Outcome.next.inj h).symm⟩)
    · next hl => exact .inr (.inr ⟨he, by omega, h⟩)
  · next he => exact .inl ⟨by simpa using he, (Host.Outcome.next.inj h).symm⟩

end Sys2Proof.Machine
end

