-- ==== Sys2Proof/Tests/Slice0.lean ====
section
/-! SUPPORT. The model's own tests, each one step or one word, with results taken from 30_encoding.md and
95_test_vectors.md, and for every obligation with hypotheses a witness that meets them. -/

namespace Sys2Proof.Machine.Tests

/-! States, all of the build of `State.reset` (N = 3, R = 2, M = 120), and readers of them. -/

/-- Busy (transferring), no element moved. -/
def flying : State := armFrame State.reset
/-- Busy (transferring), one element left. -/
def lastElement : State := { flying with dmaPtr := 119, dmaCnt := 1 }
/-- Busy (completion pending). -/
def pending : State := transferElement lastElement
/-- Busy (faulted). -/
def faulted : State := dmaError flying

/-- The next state an outcome holds, if any. -/
def nextOf : Host.Outcome State Fault Refusal → Option State
  | .next t => some t
  | .fault _ => none
  | .refused _ => none

/-- The response word after issuing a command word. -/
def respOf (w : Command) (s : State) : Option Word := (nextOf (takeEvent (.issue w) s)).map (·.resp)

/-- The 24 slots of a pixel, as bits: `some true` for CODE_1, `some false` for CODE_0. -/
def slotsOf (i : Nat) (s : State) : List (Option Bool) :=
  (List.range 24).map (fun j =>
    if readElem s (24 * i + j) = s.build.code1.setWidth 32 then some true
    else if readElem s (24 * i + j) = s.build.code0.setWidth 32 then some false else none)

/-- The bits `H` and `L` of 95_test_vectors.md. -/
def bitsOf (l : List Nat) : List (Option Bool) := l.map (fun b => some (b == 1))

/-! Decoding: words written out bit by bit from the layout of R81. -/

/-- R81: OP, RSV0, BRIGHT 50, INDEX 29, RSV1, RED 0x12, GREEN 0x34, BLUE 0x56. -/
theorem test_decode_set_pixel :
    decode 0b0001_0000_00110010_0000000000011101_00000000_00010010_00110100_01010110 =
      .command (.setPixel 29 50 0x12 0x34 0x56) := by decide

/-- L2-3: every operand at its largest. -/
theorem test_decode_set_pixel_full : decode 0x10FFFFFF00FFFFFF = .command (.setPixel 65535 255 255 255 255) := by decide

/-- R84, R85: OP 0x2 and sixty zeros. -/
theorem test_decode_submit_frame : decode (0b0010#4 ++ 0#60) = .command .submitFrame := by decide

/-- R84, R85: OP 0x3 and sixty zeros. -/
theorem test_decode_query_busy : decode (0b0011#4 ++ 0#60) = .command .queryBusy := by decide

/-- R56, R92: the word's bytes, least significant first. -/
theorem test_decode_bytes : decodeBytes [0xFF, 0x00, 0x00, 0x00, 0x02, 0x00, 0x64, 0x10] =
    .command (.setPixel 2 100 0x00 0x00 0xFF) := by decide

/-- R91: a command is exactly 64 bits. -/
theorem test_decode_bytes_length : decodeBytes [0, 0, 0, 0, 0, 0, 0x20] = .illegal .wrongLength := by decide

/-! Ill-formed words and assembler commands (R87, R93; L2-3, L2-4): each check refuses one. -/

theorem smoke_op_zero : wordWellFormed 0x0000000000000000 = false := by decide
theorem smoke_op_four : wordWellFormed 0x4000000000000000 = false := by decide
theorem smoke_op_fifteen : wordWellFormed 0xF000000000000000 = false := by decide
theorem smoke_rsv0 : wordWellFormed 0x1164000000FF0000 = false := by decide
theorem smoke_rsv1 : wordWellFormed 0x1064000001FF0000 = false := by decide
theorem smoke_submit_bit_zero : wordWellFormed 0x2000000000000001 = false := by decide
theorem smoke_query_bit_59 : wordWellFormed 0x3800000000000000 = false := by decide
theorem smoke_asm_index : (AsmCommand.setPixel 65536 0 0).wellFormed = false := by decide
theorem smoke_asm_bright : (AsmCommand.setPixel 0 0 256).wellFormed = false := by decide
theorem smoke_asm_colour : (AsmCommand.setPixel 0 0x1000000 0).wellFormed = false := by decide
theorem smoke_well_formed : wordWellFormed 0x1064000300FF0000 = true ∧ wordWellFormed 0x2000000000000000 = true ∧
    wordWellFormed 0x3000000000000000 = true ∧ (AsmCommand.setPixel 65535 0xFFFFFF 255).wellFormed = true := by decide

/-! The commands (L1, L2-2, L2-5, L2-7). -/

/-- L2-2: `SET_PIXEL 0, #123456, 50` at word 0x1A092B. -/
theorem test_set_pixel_slots : (nextOf (exec (.setPixel 0 50 0x12 0x34 0x56) State.reset)).map (slotsOf 0) =
    some (bitsOf [0,0,0,1,1,0,1,0, 0,0,0,0,1,0,0,1, 0,0,1,0,1,0,1,1]) := by decide +kernel

/-- L2-10: `SET_PIXEL 2, #FFFFFF, 100` fills slots 48 to 71, and slot 72 stays 0. -/
theorem test_set_pixel_last : (nextOf (exec (.setPixel 2 100 255 255 255) State.reset)).map
    (fun t => (slotsOf 2 t, readElem t 72)) = some (bitsOf (List.replicate 24 1), 0) := by decide +kernel

/-- R140's example, from the reset state. -/
theorem test_submit_frame : (nextOf (exec .submitFrame State.reset)).map
    (fun t => (t.resp, t.dmaPtr, t.dmaCnt, t.dmaEn, t.tmrEn, t.busy)) = some (0x100, 0, 120, true, true, true) := by decide

/-- L1-6: a second SUBMIT_FRAME after 5 UPDATEs is refused and does not re-arm. -/
theorem test_submit_frame_busy : (nextOf (exec .submitFrame { flying with dmaPtr := 5, dmaCnt := 115 })).map
    (fun t => (t.resp, t.dmaPtr, t.dmaCnt)) = some (0x102, 5, 115) := by decide

/-- L2-5: QUERY_BUSY idle, transferring, completion pending and faulted. -/
theorem test_query_busy : [State.reset, flying, pending, faulted].map (respOf 0x3000000000000000) =
    [some 0x000, some 0x100, some 0x100, some 0x300] := by decide +kernel

/-- L2-5, L2-4: the error priority. -/
theorem test_status_priority : [respOf 0x1065000300FF0000 flying, respOf 0x1065000000FF0000 flying,
    respOf 0x1064000000FF0000 flying, respOf 0x5000000000000000 flying, respOf 0x1064000300FF0000 State.reset,
    respOf 0x0000000000000000 State.reset, respOf 0x1064000500FF0000 faulted] =
    [some 0x101, some 0x101, some 0x102, some 0x103, some 0x001, some 0x003, some 0x301] := by decide +kernel

/-! The hardware's steps (L2-7 to L2-9). -/

/-- R146's example: the first UPDATE of a frame. -/
theorem test_update_first : (nextOf (takeEvent .update flying)).map
    (fun t => (t.ccr, t.dmaPtr, t.dmaCnt, t.wave, t.tcPending)) =
    some (State.reset.build.code0, 1, 119, [.value State.reset.build.code0], false) := by decide +kernel

/-- L2-7: the last UPDATE reads a reset slot and raises completion; BUSY is still 1. -/
theorem test_update_last : (nextOf (takeEvent .update lastElement)).map
    (fun t => (t.ccr, t.dmaPtr, t.dmaCnt, t.dmaEn, t.tcPending, t.busy)) = some (0, 120, 0, false, true, true) := by
  decide +kernel

/-- L2-7: IDLE_PERIOD appends the last compare value and nothing else. -/
theorem test_idle_period : nextOf (takeEvent .idlePeriod pending) =
    some { pending with wave := pending.wave ++ [.value 0] } := by decide +kernel

/-- L2-7: COMPLETE ends the frame; DMA_PTR, DMA_CNT and CCR stay. -/
theorem test_complete : (nextOf (takeEvent .complete pending)).map
    (fun t => (t.busy, t.tcPending, t.tmrEn, t.dmaPtr, t.dmaCnt, t.ccr)) = some (false, false, false, 120, 0, 0) := by
  decide +kernel

/-- L2-8: DMA_ERROR at once after SUBMIT_FRAME. -/
theorem test_dma_error : (nextOf (takeEvent .dmaError flying)).map
    (fun t => ((t.fault, t.busy, t.dmaEn, t.tmrEn), t.wave, t.dmaPtr, t.dmaCnt)) =
    some ((true, true, false, false), [], 0, 120) := by decide

/-- L2-9: RESET from power-on leaves WAVE = [RST] and the rest unchanged. -/
theorem test_reset_power_on : nextOf (takeEvent .reset State.reset) = some { State.reset with wave := [.rst] } := by
  decide +kernel

/-- L2-9: RESET when faulted clears FAULT and BUSY. -/
theorem test_reset_faulted : (nextOf (takeEvent .reset faulted)).map (fun t => (t.fault, t.busy, t.mem)) =
    some (false, false, []) := by decide +kernel

/-! The register window (L2-6) and the tick level (L2-11). -/

/-- L2-6: STATUS while busy, CFG_N, CFG_R, CMD_HI and a reserved offset. -/
theorem test_window_reads : [0x0C, 0x10, 0x14, 0x04, 0x28].map
    (fun off => (nextOf (takeEvent (.access (.read off 4)) flying)).map (·.busReply)) =
    [some (.data 1), some (.data 3), some (.data 2), some (.data 0), some (.data 0)] := by decide

/-- L2-6: CMD_HI over a stale CMD_LO issues an illegal word; CMD_LO stays. -/
theorem test_window_command : (nextOf (takeEvent (.access (.write 0x04 4 0x20000000))
    { State.reset with cmdLo := 0x00FF0000 })).map (fun t => (t.resp, t.busy, t.cmdLo)) =
    some (0x003, false, 0x00FF0000) := by decide

/-- L2-6: an 8-bit read and a misaligned read get BusError, and a 16-bit write issues nothing. -/
theorem test_window_bus_error : [BusAccess.read 0x08 1, .read 0x0A 4, .write 0x04 2 0x2000].map
    (fun a => nextOf (takeEvent (.access a) State.reset)) =
    List.replicate 3 (some { State.reset with busReply := .busError }) := by decide

/-- L2-12: 61 ticks high for CODE_1 and none for 0. -/
theorem test_high_ticks : highTicks State.reset.build 61 = 61 ∧ highTicks State.reset.build 0 = 0 ∧
    highTicks State.reset.build 91 = 90 := by decide +kernel

/-- R148: with a stale CCR of 61, before any tick of the frame CCR is `FB[0]` = CODE_0, and the first tick counts. -/
theorem test_start_event : (nextOf (timerTicks 0 { flying with ccr := 61 })).map (fun t => (t.ccr, t.dmaPtr, t.tmrCnt)) =
    some (29, 1, 0) ∧ (nextOf (timerTick { flying with ccr := 61 })).map (fun t => (t.ccr, t.dmaPtr, t.tmrCnt)) =
    some (29, 1, 1) := by decide +kernel

/-- R154, L2-7: the last tick of a period wraps TMR_CNT to 0 with the next UPDATE. -/
theorem test_tick_wraps : (nextOf (timerTick { flying with dmaPtr := 1, dmaCnt := 119, tmrCnt := 89 })).map
    (fun t => (t.dmaPtr, t.dmaCnt, t.tmrCnt)) = some (2, 118, 0) := by decide +kernel

/-- R241: a run ends at the first state after the last command with BUSY = 0 and FAULT = 0; a later read of the window
does not keep it from ending, a command still to come does, and neither a busy nor a faulted state is an end. -/
theorem test_end_of_run : endState [.access (.read 0x0C 4)] State.reset = some State.reset ∧
    (endState [.issue 0x3000000000000000] State.reset).map (·.responses) = some [0x000] ∧
    endState [.issue 0x2000000000000000] State.reset = none ∧ endState [] faulted = none ∧
    issuesCommand State.reset.build (.access (.write 0x04 4 0)) = true ∧
    issuesCommand State.reset.build (.access (.write 0x00 4 0)) = false ∧
    issuesCommand State.reset.build (.access (.write 0x04 2 0)) = false := by decide

/-- L2-12: R = 2 is a valid build, R = 1 is not; N = 2728 is, N = 2729 is not. -/
theorem test_build_valid : State.reset.build.valid = true ∧ (Build.valid { State.reset.build with r := 1 }) = false ∧
    (Build.valid { State.reset.build with n := 2728 }) = true ∧
    (Build.valid { State.reset.build with n := 2729 }) = false := by decide

/-- L1-10: N = 30, R = 2 has 768 elements. -/
theorem test_frame_length : Build.frameLen { State.reset.build with n := 30 } = 768 := by decide

/-- R94: CLEAR_ALL clears every index in increasing order, and SHOW waits for idle before it submits. -/
theorem test_pseudo : Pseudo.clearAll.expand 2 7 = [.command (.setPixel 0 0 0), .command (.setPixel 1 0 0)] ∧
    Pseudo.showFrame.expand 2 7 = [.label 7, .command .queryBusy, .ifBusyGoto 7, .command .submitFrame] := by decide

/-- The canonical form refuses an address out of order, a repeat, a byte that is its reset contents, and an address outside. -/
theorem test_memory_form : Memory.wf State.reset.build [(0x1000, 61), (0x1004, 61)] = true ∧
    Memory.wf State.reset.build [(0x1004, 61), (0x1000, 61)] = false ∧
    Memory.wf State.reset.build [(0x1000, 61), (0x1000, 60)] = false ∧
    Memory.wf State.reset.build [(0x1000, 29)] = false ∧ Memory.wf State.reset.build [(0x0FFF, 61)] = false ∧
    Memory.wf State.reset.build [(0x11E0, 61)] = false := by decide

/-- A word placed as the next event runs as the first step after reset: SUBMIT_FRAME arms, SET_PIXEL writes. -/
theorem test_step_runs_word :
    (nextOf (step (State.reset.withFetchWord 64 0x2000000000000000))).map (·.resp) = some 0x100 ∧
    (nextOf (step (State.reset.withFetchWord 64 0x1064000000FF0000))).map (slotsOf 0) =
      some (bitsOf [0,0,0,0,0,0,0,0, 1,1,1,1,1,1,1,1, 0,0,0,0,0,0,0,0]) := by decide +kernel

/-! Witnesses: for each obligation with hypotheses, states and operands that meet them, at the ends of the ranges. -/

theorem witness_EncodeOfDecode : decode 0x1064000000FF0000 = .command (.setPixel 0 100 0xFF 0 0) := by decide

theorem witness_DecodeFollowsOpcodeMap : rowSetPixel ∈ opcodeMap ∧ rowSubmitFrame ∈ opcodeMap ∧ rowQueryBusy ∈ opcodeMap ∧
    (0x10FFFFFF00FFFFFF : Command) &&& rowSetPixel.mask = rowSetPixel.pattern ∧
    (0x2000000000000000 : Command) &&& rowSubmitFrame.mask = rowSubmitFrame.pattern ∧
    (0x3000000000000000 : Command) &&& rowQueryBusy.mask = rowQueryBusy.pattern := by decide

theorem witness_IllegalWords : decode 0 = .illegal .undefinedOp ∧ decode 0x4000000000000000 = .illegal .undefinedOp ∧
    decode 0x1100000000000000 = .illegal .reservedField ∧ decode 0x1000000080000000 = .illegal .reservedField ∧
    decode 0x2800000000000000 = .illegal .reservedOperands ∧
    decode 0x3000000000000001 = .illegal .reservedOperands := by decide

theorem witness_OperandsAreFields : (0x10FFFFFF00FFFFFF : Command).extractLsb' 60 4 = 1 ∧
    (0x10FFFFFF00FFFFFF : Command).extractLsb' 56 4 = 0 ∧ (0x10FFFFFF00FFFFFF : Command).extractLsb' 24 8 = 0 := by decide

theorem witness_AssembledWordsDecode :
    (assemble (.setPixel 65535 0xFFFFFF 255) = some 0x10FFFFFF00FFFFFF) ∧
    assemble (.setPixel 65536 0 0) = none ∧ assemble (.setPixel 0 0 256) = none := by decide

theorem witness_StepRunsDecodedCommand : State.reset.build.valid = true ∧ State.reset.agenda = [] ∧
    (State.reset.withFetchWord 64 0x3000000000000000).agenda = .issue 0x3000000000000000 :: [] ∧
    decode 0x3000000000000000 = .command .queryBusy ∧
    decodeTableWord 64 0x3000000000000000 = some .queryBusy := by decide

theorem witness_ResponseWords : State.reset.phaseInv = true ∧ flying.phaseInv = true ∧
    (∃ t, takeEvent (.issue 0) State.reset = .next t ∧ t.responses = State.reset.responses ++ [0x003]) ∧
    (∃ t, takeEvent .update flying = .next t ∧ t.responses = flying.responses) ∧ 0x300 ∈ elevenResponses :=
  ⟨by decide, by decide, ⟨_, rfl, by decide⟩, ⟨_, rfl, rfl⟩, by decide⟩

theorem witness_RespWrittenByIssue : (∃ t, takeEvent .update flying = .next t) ∧
    (∃ t, takeEvent .idlePeriod pending = .next t) ∧ (∃ t, takeEvent .complete pending = .next t) ∧
    (∃ t, takeEvent .dmaError flying = .next t) := ⟨⟨_, rfl⟩, ⟨_, rfl⟩, ⟨_, rfl⟩, ⟨_, rfl⟩⟩

theorem witness_RejectedCommandsChangeOnlyResp :
    (∃ t, takeEvent (.issue 0) flying = .next t ∧ t.resp.extractLsb' 0 2 ≠ 0) ∧
    (∃ t, takeEvent (.issue 0x2000000000000000) flying = .next t ∧ t.resp.extractLsb' 0 2 ≠ 0) ∧
    (∃ t, takeEvent (.issue 0x1064000300FF0000) State.reset = .next t ∧ t.resp.extractLsb' 0 2 ≠ 0) :=
  ⟨⟨_, rfl, by decide⟩, ⟨_, rfl, by decide⟩, ⟨_, rfl, by decide⟩⟩

theorem witness_ScaleLaws : scale 255 100 = 255 ∧ scale 255 99 = 252 ∧ scale 255 1 = 2 ∧ scale 255 0 = 0 ∧
    scale 1 99 = 0 ∧ scale 128 75 = 96 ∧ scale 17 33 = 5 := by decide

/-- L2-2: the packed words of #123456 and of full white. -/
theorem witness_PackLayout : pack 0x12 0x34 0x56 = 0x341256 ∧ pack 255 255 255 = 0xFFFFFF ∧ pack 255 0 0 = 0x00FF00 := by
  decide

theorem witness_SetPixelInvalidParameter : State.reset.build.n ≤ (3 : BitVec 16).toNat ∧ 100 < (101 : Byte).toNat ∧
    State.reset.build.n ≤ (65535 : BitVec 16).toNat ∧ 100 < (255 : Byte).toNat ∧ flying.busy = true := by decide

theorem witness_DeviceBusyWhileBusy : flying.busy = true ∧ pending.busy = true ∧ faulted.busy = true ∧
    (2 : BitVec 16).toNat < flying.build.n ∧ (100 : Byte).toNat ≤ 100 := by decide

theorem witness_SetPixelWritesPackedBits : (2 : BitVec 16).toNat < State.reset.build.n ∧ (100 : Byte).toNat ≤ 100 ∧
    State.reset.busy = false ∧ 23 < 24 := by decide

theorem witness_SetPixelFrame :
    ¬ (slotAddr State.reset.build (24 * (2 : BitVec 16).toNat) ≤ 0x1000 + 4 * 72 ∧
      0x1000 + 4 * 72 < slotAddr State.reset.build (24 * (2 : BitVec 16).toNat) + 96) ∧
    State.reset.build.n ≤ (3 : BitVec 16).toNat ∧ 100 < (101 : Byte).toNat ∧ flying.busy = true ∧
    State.reset.build.pixelSlots ≤ 72 := by decide

theorem witness_PixelDecodesToScaledColour : State.reset.build.code0 ≠ State.reset.build.code1 ∧
    (2 : BitVec 16).toNat < State.reset.build.n ∧ (100 : Byte).toNat ≤ 100 ∧ State.reset.busy = false := by decide

theorem witness_SetPixelRepeatOverwriteCommute : State.reset.busy = false ∧ (0 : BitVec 16).toNat < State.reset.build.n ∧
    (2 : BitVec 16).toNat < State.reset.build.n ∧ (100 : Byte).toNat ≤ 100 ∧ (0 : Byte).toNat ≤ 100 ∧
    (0 : BitVec 16) ≠ 2 := by decide

/-- L2-2: `SET_PIXEL 2, #010101, 99` is the same as `CLEAR_PIXEL 2`. -/
theorem witness_SameScaledColourSameSlots : State.reset.busy = false ∧ (2 : BitVec 16).toNat < State.reset.build.n ∧
    (99 : Byte).toNat ≤ 100 ∧ (0 : Byte).toNat ≤ 100 ∧
    scale (1 : Byte).toNat (99 : Byte).toNat = scale (0 : Byte).toNat (0 : Byte).toNat := by decide

theorem witness_SetPixelCorners : State.reset.busy = false ∧ (2 : BitVec 16).toNat < State.reset.build.n ∧
    (2 : BitVec 16).toNat = State.reset.build.n - 1 := by decide

theorem witness_EncodeResetFillsRegion : State.reset.build.pixelSlots ≤ 72 ∧ 119 < State.reset.build.frameLen ∧
    71 < State.reset.build.pixelSlots ∧
    ¬ (slotAddr State.reset.build State.reset.build.pixelSlots ≤ 0x1000 + 4 * 72 - 1) := by decide

theorem witness_EncodeResetIdempotent : State.reset.memoryInv = true ∧
    ∀ k, State.reset.build.pixelSlots ≤ k → k < State.reset.build.frameLen →
      readElem State.reset k = Config.resetCode.setWidth 32 := by decide +kernel

theorem witness_SubmitFrameArms : State.reset.busy = false ∧ flying.busy = true ∧ State.reset.build.valid = true := by decide

theorem witness_UpdateMovesOneElement :
    (flying.tmrEn = true ∧ flying.dmaEn = true ∧ 1 ≤ flying.dmaCnt.toNat ∧ flying.dmaPtr.toNat < flying.build.frameLen) ∧
    (lastElement.tmrEn = true ∧ lastElement.dmaEn = true ∧ 1 ≤ lastElement.dmaCnt.toNat ∧
      lastElement.dmaPtr.toNat < lastElement.build.frameLen) ∧ flying.phaseInv = true ∧ pending.phaseInv = true := by
  decide +kernel

theorem witness_UpdateOutsideFrameBuffer :
    flying.tmrEn = true ∧ flying.dmaEn = true ∧ 1 ≤ flying.dmaCnt.toNat ∧
    State.dmaPtr { flying with dmaPtr := 120 } = 120 ∧ flying.build.frameLen ≤ (120 : Half).toNat ∧
    flying.phaseInv = true ∧ lastElement.phaseInv = true := by decide

theorem witness_IdlePeriodRepeats : pending.tmrEn = true ∧ pending.dmaEn = false ∧ pending.phaseInv = true ∧
    pending.isCompletionPending = true ∧ flying.dmaEn = true := by decide +kernel

theorem witness_CompleteEndsFrame : pending.tcPending = true := by decide +kernel

theorem witness_DmaErrorFaults : flying.phaseInv = true ∧ flying.isTransferring = true ∧ flying.dmaEn = true ∧
    flying.tcPending = false := by decide

theorem witness_EnabledStepsByPhase : State.reset.isIdle = true ∧ flying.isTransferring = true ∧
    pending.isCompletionPending = true ∧ faulted.isFaulted = true ∧ State.reset.phaseInv = true := by decide +kernel

theorem witness_DisabledEventsChangeNothing : State.reset.tmrEn = false ∧ pending.dmaEn = false ∧ pending.dmaCnt = 0 ∧
    flying.dmaEn = true ∧ flying.tcPending = false ∧ faulted.dmaEn = false := by decide +kernel

theorem witness_ControllerTransitions : State.reset.build.valid = true ∧ State.reset.isIdle = true ∧
    decode 0x3000000000000000 ≠ .command .submitFrame ∧ flying.isTransferring = true ∧ 1 < flying.dmaCnt.toNat ∧
    lastElement.isTransferring = true ∧ ¬ 1 < lastElement.dmaCnt.toNat ∧ pending.isCompletionPending = true ∧
    flying.phaseInv = true ∧ flying.busy = true ∧ faulted.isFaulted = true ∧ faulted.build.valid = true := by
  decide +kernel

theorem witness_ControllerTransitions_faulted_event : ∃ t, takeEvent .update faulted = .next t := ⟨_, rfl⟩

/-- Of StepKeepsBuild too: a step that answers a next state, from a state that meets every invariant. -/
theorem witness_steps : (State.reset.withFetchWord 64 0x3000000000000000).phaseInv = true ∧
    (State.reset.withFetchWord 64 0x3000000000000000).rangeInv = true ∧
    (State.reset.withFetchWord 64 0x3000000000000000).memoryInv = true ∧
    (∃ t, step (State.reset.withFetchWord 64 0x3000000000000000) = .next t) :=
  ⟨by decide, by decide, by decide, ⟨_, rfl⟩⟩

theorem witness_StepKeepsPhase : ∃ t, flying.phaseInv = true ∧ flying.rangeInv = true ∧
    step { flying with agenda := [.update] } = .next t := ⟨_, by decide, by decide, rfl⟩

theorem witness_StepKeepsMemoryForm : ∃ t, State.memoryInv { State.reset with mem := [(0x1000, 61)], agenda := [.reset] } = true ∧
    step { State.reset with mem := [(0x1000, 61)], agenda := [.reset] } = .next t := ⟨_, by decide, rfl⟩

theorem witness_StepKeepsFrameBuffer : State.frameBufferInv (State.reset.withFetchWord 64 0x3000000000000000) ∧
    ∃ t, step (State.reset.withFetchWord 64 0x3000000000000000) = .next t := by
  refine ⟨⟨?_, ?_⟩, ⟨_, rfl⟩⟩ <;> decide +kernel

theorem witness_InvariantsAtReset : State.reset.build.valid = true ∧
    Build.valid { n := 1, r := 1, code1 := 2, code0 := 1, periodTicks := 3, timerHz := 1, fbBase := 0, ccrAddr := 0, mmioBase := 0 } =
      true := by decide

theorem witness_WaveOnlyGrows : (∃ t, takeEvent .update flying = .next t) ∧
    (∃ t, takeEvent .idlePeriod pending = .next t) ∧ (∃ t, takeEvent .complete pending = .next t) ∧
    (∃ t, takeEvent .reset pending = .next t) := ⟨⟨_, rfl⟩, ⟨_, rfl⟩, ⟨_, rfl⟩, ⟨_, rfl⟩⟩

theorem witness_FlagWriters :
    (∃ t, takeEvent .complete pending = .next t ∧ pending.busy = true ∧ t.busy = false ∧ pending.tcPending = true ∧
      t.tcPending = false) ∧
    (∃ t, takeEvent .dmaError flying = .next t ∧ flying.fault = false ∧ t.fault = true) ∧
    (∃ t, takeEvent .update lastElement = .next t ∧ lastElement.tcPending = false ∧ t.tcPending = true) ∧
    (∃ t, takeEvent .reset faulted = .next t ∧ faulted.fault = true ∧ t.fault = false) ∧
    (∃ t, exec .submitFrame State.reset = .next t ∧ t.busy ≠ State.reset.busy) :=
  ⟨⟨_, rfl, by decide +kernel⟩, ⟨_, rfl, by decide⟩, ⟨_, rfl, by decide +kernel⟩, ⟨_, rfl, by decide +kernel⟩,
    ⟨_, rfl, by decide⟩⟩

theorem witness_BufferNeverMutatedWhileBusy : flying.busy = true ∧ Event.issue 0x1064000000FF0000 ≠ .reset ∧
    ∃ t, takeEvent (.issue 0x1064000000FF0000) flying = .next t := ⟨rfl, by decide, ⟨_, rfl⟩⟩

theorem witness_FaultIsSticky : faulted.isFaulted = true ∧ (2 : BitVec 16).toNat < faulted.build.n ∧
    (100 : Byte).toNat ≤ 100 ∧ Event.update ≠ .reset ∧ ∃ t, takeEvent .update faulted = .next t :=
  ⟨by decide, by decide, by decide, by decide, ⟨_, rfl⟩⟩

/-! The frame statements need a whole frame. The smallest valid build has one pixel and one reset slot, 48 elements. -/

/-- The smallest build, at power-on. -/
def tiny : State := State.powerOn
  { n := 1, r := 1, code1 := 2, code0 := 1, periodTicks := 3, timerHz := 1, fbBase := 0x1000, ccrAddr := 0x40, mmioBase := 0 }

/-- Its frame armed. -/
def tinyArmed : State := respond .ok (armFrame tiny)

/-- Its state after the 48 UPDATE steps of a frame. -/
def tinySent : State := { tinyArmed with
  ccr := 0, dmaPtr := 48, dmaCnt := 0, dmaEn := false, tcPending := true
  wave := List.replicate 24 (.value 1) ++ List.replicate 24 (.value 0) }

theorem tiny_armed : exec .submitFrame tiny = .next tinyArmed := rfl

theorem nextOf_eq {o : Host.Outcome State Fault Refusal} {t : State} (h : nextOf o = some t) : o = .next t := by
  cases o with
  | next s => simpa [nextOf] using h
  | fault r => simp [nextOf] at h
  | refused r => simp [nextOf] at h

theorem tiny_sent : runEvents (List.replicate 48 .update) tinyArmed = .next tinySent :=
  nextOf_eq (by decide +kernel)

/-- Also of FrameSnapshot, FrameEmission, FrameEndsInResetPeriods: a run that meets all their hypotheses. -/
theorem witness_frame : tiny.build.valid = true ∧ tiny.isIdle = true ∧ tiny.frameBufferInv ∧
    exec .submitFrame tiny = .next tinyArmed ∧ runEvents (List.replicate 48 .update) tinyArmed = .next tinySent ∧
    (∀ e ∈ List.replicate 48 Event.update, e ≠ .reset ∧ e ≠ .dmaError ∧ e ≠ .complete) ∧
    tinySent.tcPending = true ∧ takeEvent .complete tinySent = .next (completeFrame tinySent) :=
  ⟨by decide, by decide, ⟨by decide +kernel, by decide +kernel⟩, tiny_armed, tiny_sent, by decide, by decide, rfl⟩

/-- A run whose frame is over: the same with COMPLETE. -/
theorem witness_BusyEndsAfterWholeFrame : tiny.build.valid = true ∧ tiny.isIdle = true ∧
    exec .submitFrame tiny = .next tinyArmed ∧
    runEvents (List.replicate 48 .update ++ [.complete]) tinyArmed = .next (completeFrame tinySent) ∧
    (∀ e ∈ List.replicate 48 Event.update ++ [Event.complete], e ≠ .reset) ∧ (completeFrame tinySent).busy = false :=
  ⟨by decide, by decide, tiny_armed, nextOf_eq (by decide +kernel), by decide, rfl⟩

/-- A fair schedule of that frame: 48 UPDATE steps, then COMPLETE for ever. -/
def fairSchedule (n : Nat) : Event := if n < 48 then .update else .complete

theorem fair_last : isTimerStep (fairSchedule 47) (stateAt fairSchedule tinyArmed 47) = true := by decide +kernel

theorem fair_end : stateAt fairSchedule tinyArmed 49 = completeFrame tinySent := by decide +kernel

theorem fair_after (k : Nat) : stateAt fairSchedule tinyArmed (49 + k) = completeFrame tinySent := by
  induction k with
  | zero => exact fair_end
  | succ k ih =>
    have h : fairSchedule (49 + k) = .complete := if_neg (by omega)
    have : stateAt fairSchedule tinyArmed (49 + k + 1) =
        afterEvent (fairSchedule (49 + k)) (stateAt fairSchedule tinyArmed (49 + k)) := rfl
    rw [Nat.add_succ, this, ih, h]
    rfl

theorem witness_FairFramesComplete : tiny.build.valid = true ∧ tiny.isIdle = true ∧
    exec .submitFrame tiny = .next tinyArmed ∧ (∀ n, fairSchedule n ≠ .reset ∧ fairSchedule n ≠ .dmaError) ∧
    (∀ n, issuesCommand tiny.build (fairSchedule n) = false) ∧
    TimerFair fairSchedule tinyArmed ∧ CompletionFair fairSchedule tinyArmed := by
  refine ⟨by decide, by decide, tiny_armed, ?_, ?_, ?_, ?_⟩
  · intro n
    unfold fairSchedule
    split <;> decide
  · intro n
    unfold fairSchedule
    split <;> decide
  · intro n _
    by_cases h : n ≤ 47
    · exact ⟨47, h, .inr fair_last⟩
    · refine ⟨n + 49, by omega, .inl ?_⟩
      rw [Nat.add_comm, fair_after]
      rfl
  · intro n _
    refine ⟨n + 49, by omega, .inl ?_⟩
    rw [Nat.add_comm, fair_after]
    rfl

/-! Reset, the window, the pin, the build. -/

theorem witness_PowerOnValues : 71 < 24 * State.reset.build.n ∧ 24 * State.reset.build.n ≤ 72 ∧
    119 < 24 * (State.reset.build.n + State.reset.build.r) ∧
    readElem State.reset 71 = 29 ∧ readElem State.reset 72 = 0 := by decide +kernel

theorem witness_ResetFromAnyState : 71 < 24 * flying.build.n ∧ 24 * flying.build.n ≤ 72 := by decide

/-- The ends of the read-only and reserved offsets: writes there leave RESP, CMD_LO and BUSY as they are. -/
theorem witness_WindowWrites : 2 ≤ 2 ∧ 2 < 16 ∧ 2 ≤ 15 ∧ 15 < 16 ∧
    [2, 15].map (fun k => nextOf (takeEvent (.access (.write (State.reset.build.mmioBase + 4 * k) 4 0xFFFFFFFF)) flying)) =
      List.replicate 2 (some { flying with busReply := .done }) := by decide

theorem witness_BusErrorChangesNothing : State.reset.build.valid = true ∧
    (0x08 < State.reset.build.mmioBase + 64 ∧ State.reset.build.mmioBase < 0x08 + 1 ∧ 1 ≠ 4) ∧
    (0x3E < State.reset.build.mmioBase + 64 ∧ State.reset.build.mmioBase < 0x3E + 4 ∧ 0x3E % 4 ≠ 0) := by decide

theorem witness_HostCannotReachFrameBuffer :
    touches State.reset.build.mmioBase 64 (accessAddr (.read 0x1000 4)) (accessBytes (.read 0x1000 4)) = false ∧
    touches State.reset.build.fbBase (4 * State.reset.build.frameLen) (accessAddr (.read 0x1000 4))
      (accessBytes (.read 0x1000 4)) = true ∧
    touches State.reset.build.fbBase (4 * State.reset.build.frameLen) (accessAddr (.write 0x11DF 1 0))
      (accessBytes (.write 0x11DF 1 0)) = true ∧
    touches State.reset.build.fbBase (4 * State.reset.build.frameLen) (accessAddr (.write 0x11E0 1 0))
      (accessBytes (.write 0x11E0 1 0)) = false := by decide

theorem witness_PinHighTime : pinAtTick State.reset.build 61 60 = true ∧ pinAtTick State.reset.build 61 61 = false ∧
    State.reset.tmrEn = false ∧ pending.tcPending = true ∧ flying.dmaEn = true ∧
    (∃ t, takeEvent .reset flying = .next t) ∧ (∃ t, takeEvent .complete pending = .next t) ∧
    (∃ t, takeEvent .dmaError flying = .next t) :=
  ⟨by decide, by decide, by decide, by decide +kernel, by decide, ⟨_, rfl⟩, ⟨_, rfl⟩, ⟨_, rfl⟩⟩

theorem witness_TicksRefineOnePeriod : lastElement.build.valid = true ∧ lastElement.tmrEn = true ∧
    lastElement.tmrCnt = 0 ∧ startEventDue lastElement = false ∧ lastElement.dmaEn = true ∧ lastElement.dmaCnt ≠ 0 ∧
    89 < lastElement.build.periodTicks ∧ pending.tmrEn = true ∧ pending.tmrCnt = 0 ∧ startEventDue pending = false ∧
    pending.dmaEn = false ∧ pending.build.valid = true ∧ State.reset.build.valid = true ∧ State.reset.busy = false := by
  decide +kernel

theorem witness_TicksRefineOnePeriod_start : ∃ t, exec .submitFrame State.reset = .next t := ⟨_, rfl⟩

theorem witness_DmaAddressesAligned : State.reset.build.valid = true := by decide

theorem witness_ResetIntervalNeedsTwoSlots : State.reset.build.valid = true ∧ 0 < State.reset.build.timerHz ∧
    State.reset.build.periodTicks * 1000000 * 4 = 5 * State.reset.build.timerHz := by decide

end Sys2Proof.Machine.Tests
end

section
/-! SUPPORT. The opcode table's words as command words (R56, R91), the schedule's next event as one step (R6, R80), and the
statement that ties `step` to `exec`. -/

namespace Sys2Proof.Machine

/-! A word of the opcode table is laid out in eight bytes and read back as one command word. -/

/-- Byte `k` of a number's layout is byte `k` of the number as a command word (R56). -/
theorem byte_eq_extractLsb' (x : Nat) {k : Nat} (hk : k < 8) :
    BitVec.ofNat 8 (x >>> (8 * k)) = (BitVec.ofNat 64 x).extractLsb' (8 * k) 8 := by
  apply BitVec.eq_of_getLsbD_eq
  intro i hi
  have hbit : 8 * k + i < 64 := by omega
  simp only [BitVec.getLsbD_ofNat, BitVec.getLsbD_extractLsb', Nat.testBit_shiftRight, hi, hbit, decide_true, Bool.true_and]

/-- A run of bits and the byte just below it are one run of bits. -/
theorem extractLsb'_append_byte (w : Command) (start len : Nat) :
    w.extractLsb' (start + 8) len ++ w.extractLsb' start 8 = w.extractLsb' start (len + 8) :=
  BitVec.extractLsb'_append_extractLsb'_eq_extractLsb' rfl

/-- Eight consecutive bytes of a command word, the first its lowest, make up that word (R56). -/
theorem wordOfBytes_extractLsb' (w : Command) :
    wordOfBytes (w.extractLsb' 0 8) (w.extractLsb' 8 8) (w.extractLsb' 16 8) (w.extractLsb' 24 8)
      (w.extractLsb' 32 8) (w.extractLsb' 40 8) (w.extractLsb' 48 8) (w.extractLsb' 56 8) = w := by
  unfold wordOfBytes
  iterate 7 rw [extractLsb'_append_byte]
  exact BitVec.extractLsb'_eq_self

/-- Decoding the byte layout of a number is decoding its low 64 bits (R56, R91). -/
theorem decodeBytes_bytesOfNat (x : Nat) : decodeBytes (bytesOfNat x) = decode (BitVec.ofNat 64 x) := by
  have hbytes : bytesOfNat x = (List.range 8).map (fun k => (BitVec.ofNat 64 x).extractLsb' (8 * k) 8) :=
    List.map_congr_left fun k hk => byte_eq_extractLsb' x (List.mem_range.mp hk)
  rw [hbytes]
  exact congrArg decode (wordOfBytes_extractLsb' (BitVec.ofNat 64 x))

/-- A decoder's answer holds an instruction exactly when it is that command. -/
theorem instr?_eq_some {d : Decoded} {i : Instr} : d.instr? = some i ↔ d = .command i := by
  cases d <;> simp [Decoded.instr?]

/-- A table word reads as an instruction exactly when the command word it is issued as decodes to it (R86). -/
theorem decodeTableWord_eq_some {nbits w : Nat} {i : Instr} :
    decodeTableWord nbits w = some i ↔ decode (tableWord nbits w) = .command i := by
  unfold decodeTableWord tableWord
  rw [instr?_eq_some, decodeBytes_bytesOfNat]

/-! One step of a valid build takes the schedule's next event. -/

/-- Where an event is placed, it is the next one, and it comes off the schedule (R6). -/
theorem nextEvent_cons {s : State} {e : Event} {rest : List Event} (h : s.agenda = e :: rest) :
    nextEvent s = (e, { s with agenda := rest }) := by
  unfold nextEvent
  rw [h]

/-- Where no event is placed, the next one is the free choice (R6). -/
theorem nextEvent_nil {s : State} (h : s.agenda = []) :
    nextEvent s = (Config.freeEvent s.draws, { s with draws := s.draws + 1 }) := by
  unfold nextEvent
  rw [h]

/-- In a valid build a step is the schedule's next event, taken whole (R17). -/
theorem step_of_valid {s : State} (hv : s.build.valid = true) :
    step s = takeEvent (nextEvent s).1 (nextEvent s).2 :=
  if_pos hv

/-- In a valid build a step takes the event placed first. -/
theorem step_cons {s : State} {e : Event} {rest : List Event} (hv : s.build.valid = true)
    (h : s.agenda = e :: rest) : step s = takeEvent e { s with agenda := rest } := by
  rw [step_of_valid hv, nextEvent_cons h]

/-- In a valid build a step with nothing placed takes the free choice. -/
theorem step_nil {s : State} (hv : s.build.valid = true) (h : s.agenda = []) :
    step s = takeEvent (Config.freeEvent s.draws) { s with draws := s.draws + 1 } := by
  rw [step_of_valid hv, nextEvent_nil h]

/-- A scheduled Issue of a word that decodes to a command is one `exec` of that command (R80). -/
theorem step_issue_command {s : State} {w : Command} {rest : List Event} {i : Instr}
    (hv : s.build.valid = true) (h : s.agenda = .issue w :: rest) (hw : decode w = .command i) :
    step s = exec i { s with agenda := rest } := by
  rw [step_cons hv h, takeEvent_issue, issue_command hw]

/-- Settles O8: a step in a valid build is the schedule's next event, and an Issue, scheduled or placed by
`withFetchWord`, is `exec` of the command its word decodes to. -/
theorem stepRunsDecodedCommand : Obligations.StepRunsDecodedCommand := by
  intro s hv
  refine ⟨fun e rest h => step_cons hv h, fun w rest i h hw => step_issue_command hv h hw,
    fun nbits w i hw => ?_, step_nil hv⟩
  have hplaced : (s.withFetchWord nbits w).agenda = .issue (tableWord nbits w) :: s.agenda := rfl
  exact step_issue_command (s := s.withFetchWord nbits w) hv hplaced (decodeTableWord_eq_some.mp hw)

end Sys2Proof.Machine
end

section
/-! SUPPORT. What a step does to the block, apart from what only the host and the schedule see: one relation of the
effects of an event, and the invariants that every step keeps. -/

namespace Sys2Proof.Machine

/-! The block apart from RESP, CMD_LO and the model's own bookkeeping. -/

/-- The second state is the first apart from the fields that no step of the hardware reads: RESP, CMD_LO, the host's
observations (log 4, log 5) and the schedule (log 2). -/
def SameBlock (s t : State) : Prop :=
  ∃ resp responses cmdLo busReply agenda draws,
    t = { s with resp := resp, responses := responses, cmdLo := cmdLo, busReply := busReply
                 agenda := agenda, draws := draws }

namespace SameBlock

theorem refl (s : State) : SameBlock s s := ⟨_, _, _, _, _, _, rfl⟩

theorem trans {s t u : State} (h : SameBlock s t) (h' : SameBlock t u) : SameBlock s u := by
  obtain ⟨_, _, _, _, _, _, rfl⟩ := h
  obtain ⟨_, _, _, _, _, _, rfl⟩ := h'
  exact ⟨_, _, _, _, _, _, rfl⟩

theorem respond (st : Status) (s : State) : SameBlock s (respond st s) := ⟨_, _, _, _, _, _, rfl⟩

theorem reply (r : BusReply) (s : State) : SameBlock s (reply r s) := ⟨_, _, _, _, _, _, rfl⟩

theorem withCmdLo (v : Word) (s : State) : SameBlock s { s with cmdLo := v } := ⟨_, _, _, _, _, _, rfl⟩

theorem nextEvent (s : State) : SameBlock s (nextEvent s).2 := by
  obtain ⟨agenda, draws, h⟩ := nextEvent_state s
  exact ⟨_, _, _, _, agenda, draws, h⟩

variable {s t : State} (h : SameBlock s t)
include h

theorem build_eq : t.build = s.build := by obtain ⟨_, _, _, _, _, _, rfl⟩ := h; rfl
theorem mem_eq : t.mem = s.mem := by obtain ⟨_, _, _, _, _, _, rfl⟩ := h; rfl
theorem busy_eq : t.busy = s.busy := by obtain ⟨_, _, _, _, _, _, rfl⟩ := h; rfl
theorem fault_eq : t.fault = s.fault := by obtain ⟨_, _, _, _, _, _, rfl⟩ := h; rfl
theorem tcPending_eq : t.tcPending = s.tcPending := by obtain ⟨_, _, _, _, _, _, rfl⟩ := h; rfl
theorem wave_eq : t.wave = s.wave := by obtain ⟨_, _, _, _, _, _, rfl⟩ := h; rfl

end SameBlock

/-- Elements are read from the frame buffer alone, at the build's addresses. -/
theorem readElem_congr {s t : State} (hb : t.build = s.build) (hm : t.mem = s.mem) (k : Nat) :
    readElem t k = readElem s k := by
  simp only [readElem, memRead32, readByte, hb, hm]

/-! The effects of an event. -/

/-- The event issues a word of SUBMIT_FRAME, through the command port or by a write of CMD_HI (R80, R92). -/
def IssuesSubmit (s : State) (e : Event) : Prop :=
  ∃ w, decode w = .command .submitFrame ∧
    (e = .issue w ∨ ∃ v, e = .access (.write (s.build.mmioBase + 4) 4 v) ∧ w = v ++ s.cmdLo)

/-- Everything an event can do to the block: nothing, arm a frame or write a pixel of an idle controller, or one of the
five steps that are not the host's (R6). -/
inductive EventEffect (s : State) : Event → State → Prop
  | quiet {e : Event} {t : State} (he : e ≠ .reset) (ht : SameBlock s t) : EventEffect s e t
  | arm {e : Event} {t : State} (hb : s.busy = false) (he : IssuesSubmit s e) (ht : SameBlock (armFrame s) t) :
      EventEffect s e t
  | pixel {e : Event} {t : State} (i : Nat) (w : BitVec 24) (hb : s.busy = false) (he : isHostEvent e = true)
      (hi : i < s.build.n) (ht : SameBlock (writePixel i w s) t) : EventEffect s e t
  | update (he : updateEnabled s = true) (hp : s.dmaPtr.toNat < s.build.frameLen) :
      EventEffect s .update (transferElement s)
  | idlePeriod (he : idlePeriodEnabled s = true) : EventEffect s .idlePeriod (idlePeriod s)
  | complete (he : s.tcPending = true) : EventEffect s .complete (completeFrame s)
  | dmaError (he : s.dmaEn = true) : EventEffect s .dmaError (dmaError s)
  | reset : EventEffect s .reset (resetStep s)

/-- What an Issue step leaves of the block (R80): the block itself, a frame armed by SUBMIT_FRAME, or a written pixel. -/
theorem issue_effect {w : Command} {s t : State} (h : issue w s = .next t) :
    SameBlock s t ∨
    (s.busy = false ∧ decode w = .command .submitFrame ∧ SameBlock (armFrame s) t) ∨
    (s.busy = false ∧ ∃ i c, i < s.build.n ∧ SameBlock (writePixel i c s) t) := by
  cases hd : decode w with
  | illegal why =>
    rw [issue_illegal hd, Host.Outcome.next.injEq] at h
    exact .inl (h ▸ .respond _ _)
  | command i =>
    rw [issue_command hd] at h
    rcases exec_cases h with ⟨st, rfl⟩ | ⟨hb, rfl, rfl⟩ | ⟨hb, index, bright, red, green, blue, -, hi, -, rfl⟩
    · exact .inl (.respond _ _)
    · exact .inr (.inl ⟨hb, rfl, .respond _ _⟩)
    · exact .inr (.inr ⟨hb, _, _, hi, .respond _ _⟩)

/-- An event that issues a word has the effect of that Issue step on the block. -/
theorem effect_of_issue {s t u : State} {w : Command} {e : Event} (h : issue w s = .next u) (ht : SameBlock u t)
    (hhost : isHostEvent e = true)
    (he : e = .issue w ∨ ∃ v, e = .access (.write (s.build.mmioBase + 4) 4 v) ∧ w = v ++ s.cmdLo) :
    EventEffect s e t := by
  rcases issue_effect h with h | ⟨hb, hd, h⟩ | ⟨hb, i, c, hi, h⟩
  · exact .quiet (by rintro rfl; cases hhost) (h.trans ht)
  · exact .arm hb ⟨w, hd, he⟩ (h.trans ht)
  · exact .pixel i c hb hhost hi (h.trans ht)

/-- An event that answers a next state has one of the effects. -/
theorem takeEvent_effect {e : Event} {s t : State} (h : takeEvent e s = .next t) : EventEffect s e t := by
  rcases takeEvent_cases h with ⟨hen, rfl⟩ | ⟨w, rfl, h⟩ | ⟨a, rfl, h⟩ | ⟨rfl, he, hp, rfl⟩ | ⟨rfl, he, rfl⟩ |
    ⟨rfl, he, rfl⟩ | ⟨rfl, he, rfl⟩ | ⟨rfl, rfl⟩
  · exact .quiet (by rintro rfl; cases hen) (.refl _)
  · exact effect_of_issue h (.refl t) rfl (.inl rfl)
  · rcases hostAccess_cases h with ⟨r, rfl⟩ | ⟨v, rfl⟩ | ⟨v, u, rfl, hu, rfl⟩
    · exact .quiet (by simp) (.reply _ _)
    · exact .quiet (by simp) ((SameBlock.withCmdLo v s).trans (.reply _ _))
    · exact effect_of_issue hu (.reply _ _) rfl (.inr ⟨v, rfl, rfl⟩)
  · exact .update he hp
  · exact .idlePeriod he
  · exact .complete he
  · exact .dmaError he
  · exact .reset

/-! A property that every step keeps. -/

/-- The property is one of the block, and in a valid build each of the block's own operations keeps it where it can be
taken. -/
structure KeptByBlock (P : State → Prop) : Prop where
  same : ∀ {s t : State}, SameBlock s t → P s → P t
  arm : ∀ {s : State}, s.build.valid = true → s.busy = false → P s → P (armFrame s)
  pixel : ∀ {s : State} {i : Nat} (w : BitVec 24), i < s.build.n → P s → P (writePixel i w s)
  update : ∀ {s : State}, s.build.valid = true → updateEnabled s = true → P s → P (transferElement s)
  idlePeriod : ∀ {s : State}, P s → P (idlePeriod s)
  complete : ∀ {s : State}, s.tcPending = true → P s → P (completeFrame s)
  dmaError : ∀ {s : State}, s.dmaEn = true → P s → P (dmaError s)
  reset : ∀ {s : State}, P s → P (resetStep s)

theorem KeptByBlock.effect {P : State → Prop} (hP : KeptByBlock P) {s t : State} {e : Event}
    (hv : s.build.valid = true) (he : EventEffect s e t) (hs : P s) : P t := by
  cases he with
  | quiet _ ht => exact hP.same ht hs
  | arm hb _ ht => exact hP.same ht (hP.arm hv hb hs)
  | pixel i w _ _ hi ht => exact hP.same ht (hP.pixel w hi hs)
  | update he _ => exact hP.update hv he hs
  | idlePeriod _ => exact hP.idlePeriod hs
  | complete he => exact hP.complete he hs
  | dmaError he => exact hP.dmaError he hs
  | reset => exact hP.reset hs

/-- Every step keeps a property that the block's operations keep. -/
theorem KeptByBlock.step {P : State → Prop} (hP : KeptByBlock P) {s t : State} (h : step s = .next t) (hs : P s) :
    P t := by
  obtain ⟨hv, ht⟩ := step_cases h
  have hnext := SameBlock.nextEvent s
  exact hP.effect (by rw [hnext.build_eq]; exact hv) (takeEvent_effect ht) (hP.same hnext hs)

/-! The four phases (R45, R46), each as its conditions. -/

theorem isIdle_iff {s : State} : s.isIdle = true ↔
    s.busy = false ∧ s.fault = false ∧ s.tcPending = false ∧ s.dmaEn = false ∧ s.tmrEn = false := by
  simp [State.isIdle, and_assoc]

theorem isTransferring_iff {s : State} : s.isTransferring = true ↔
    s.busy = true ∧ s.fault = false ∧ s.tcPending = false ∧ s.dmaEn = true ∧ s.tmrEn = true ∧
      s.dmaPtr.toNat + s.dmaCnt.toNat = s.build.frameLen ∧ 1 ≤ s.dmaCnt.toNat := by
  simp [State.isTransferring, and_assoc]

theorem isCompletionPending_iff {s : State} : s.isCompletionPending = true ↔
    s.busy = true ∧ s.fault = false ∧ s.tcPending = true ∧ s.dmaEn = false ∧ s.tmrEn = true ∧
      s.dmaPtr.toNat = s.build.frameLen ∧ s.dmaCnt = 0 := by
  simp [State.isCompletionPending, and_assoc]

theorem isFaulted_iff {s : State} : s.isFaulted = true ↔
    s.busy = true ∧ s.fault = true ∧ s.tcPending = false ∧ s.dmaEn = false ∧ s.tmrEn = false := by
  simp [State.isFaulted, and_assoc]

theorem phaseInv_iff {s : State} : s.phaseInv = true ↔
    s.isIdle = true ∨ s.isTransferring = true ∨ s.isCompletionPending = true ∨ s.isFaulted = true := by
  simp [State.phaseInv, or_assoc]

theorem rangeInv_iff {s : State} : s.rangeInv = true ↔
    s.dmaPtr.toNat ≤ s.build.frameLen ∧ s.dmaCnt.toNat ≤ s.build.frameLen ∧
      s.tmrCnt.toNat < s.build.periodTicks := by
  simp [State.rangeInv, and_assoc]

/-! In a state of a phase, one flag tells which. -/

theorem isIdle_of_phaseInv {s : State} (h : s.phaseInv = true) (hb : s.busy = false) : s.isIdle = true := by
  rcases phaseInv_iff.mp h with h | h | h | h
  · exact h
  · simp [hb, isTransferring_iff] at h
  · simp [hb, isCompletionPending_iff] at h
  · simp [hb, isFaulted_iff] at h

theorem isTransferring_of_phaseInv {s : State} (h : s.phaseInv = true) (hd : s.dmaEn = true) :
    s.isTransferring = true := by
  rcases phaseInv_iff.mp h with h | h | h | h
  · simp [hd, isIdle_iff] at h
  · exact h
  · simp [hd, isCompletionPending_iff] at h
  · simp [hd, isFaulted_iff] at h

theorem isCompletionPending_of_phaseInv {s : State} (h : s.phaseInv = true) (ht : s.tcPending = true) :
    s.isCompletionPending = true := by
  rcases phaseInv_iff.mp h with h | h | h | h
  · simp [ht, isIdle_iff] at h
  · simp [ht, isTransferring_iff] at h
  · exact h
  · simp [ht, isFaulted_iff] at h

/-- The four phases exclude each other: BUSY tells Idle from the rest, FAULT and TC_PENDING tell the rest apart. -/
theorem count_phases_le_one (s : State) :
    [s.isIdle, s.isTransferring, s.isCompletionPending, s.isFaulted].count true ≤ 1 := by
  have one_left (p : Prop) [Decidable p] : (if p then 1 else 0) ≤ 1 := by split <;> decide
  unfold State.isIdle State.isTransferring State.isCompletionPending State.isFaulted
  cases s.busy with
  | false => simp [List.count_cons, one_left]
  | true =>
    cases s.fault with
    | true => simp [List.count_cons, one_left]
    | false =>
      cases s.tcPending with
      | true => simp [List.count_cons, one_left]
      | false => simp [List.count_cons, one_left]

/-! A valid build's figures. -/

theorem frameLen_pos_of_valid {b : Build} (hv : b.valid = true) : 1 ≤ b.frameLen := by
  simp [Build.valid, Build.parametersOk] at hv
  simp only [Build.frameLen]
  omega

theorem frameLen_le_of_valid {b : Build} (hv : b.valid = true) : b.frameLen ≤ 65535 := by
  simp [Build.valid, Build.parametersOk] at hv
  omega

theorem resetSlots_pos_of_valid {b : Build} (hv : b.valid = true) : 1 ≤ b.r := by
  simp [Build.valid, Build.parametersOk] at hv
  omega

theorem periodTicks_pos_of_valid {b : Build} (hv : b.valid = true) : 0 < b.periodTicks := by
  simp [Build.valid, Build.parametersOk] at hv
  omega

/-- In a valid build the 16-bit count holds `M` whole (R13). -/
theorem toNat_frameLen_of_valid {b : Build} (hv : b.valid = true) :
    (BitVec.ofNat 16 b.frameLen).toNat = b.frameLen := by
  have := frameLen_le_of_valid hv
  rw [BitVec.toNat_ofNat]
  omega

/-! The transitions of the controller (R144), and the counters. -/

theorem isTransferring_armFrame {s : State} (hv : s.build.valid = true) (h : s.isIdle = true) :
    (armFrame s).isTransferring = true := by
  obtain ⟨-, hf, ht, -, -⟩ := isIdle_iff.mp h
  have := frameLen_pos_of_valid hv
  have hM := toNat_frameLen_of_valid hv
  refine isTransferring_iff.mpr ⟨rfl, hf, ht, rfl, rfl, ?_, ?_⟩
  · simpa using hM
  · simpa [hM] using this

/-- An UPDATE moves the pointer up and the count down by one, and neither wraps (R146). -/
theorem toNat_transferElement {s : State} (hp : s.dmaPtr.toNat < 65535) (hc : 1 ≤ s.dmaCnt.toNat) :
    (transferElement s).dmaPtr.toNat = s.dmaPtr.toNat + 1 ∧
    (transferElement s).dmaCnt.toNat = s.dmaCnt.toNat - 1 := by
  simp only [transferElement_dmaPtr, transferElement_dmaCnt]
  constructor <;> bv_omega

/-- An UPDATE stays in the transfer, or ends it with its last element (R144). -/
theorem phase_transferElement {s : State} (hM : s.build.frameLen ≤ 65535) (h : s.isTransferring = true) :
    (transferElement s).isTransferring = true ∨ (transferElement s).isCompletionPending = true := by
  obtain ⟨hb, hf, ht, hd, hr, hsum, hc⟩ := isTransferring_iff.mp h
  obtain ⟨hp', hc'⟩ := toNat_transferElement (s := s) (by omega) hc
  by_cases hlast : s.dmaCnt - 1 = 0
  · have hzero : (transferElement s).dmaCnt.toNat = 0 := congrArg BitVec.toNat hlast
    refine .inr (isCompletionPending_iff.mpr ⟨hb, hf, if_pos hlast, if_pos hlast, hr, ?_, hlast⟩)
    rw [hp', transferElement_build]
    omega
  · have hmore : (transferElement s).dmaCnt.toNat ≠ 0 := fun h0 => hlast (BitVec.eq_of_toNat_eq h0)
    refine .inl (isTransferring_iff.mpr
      ⟨hb, hf, (if_neg hlast).trans ht, (if_neg hlast).trans hd, hr, ?_, by omega⟩)
    rw [hp', hc', transferElement_build]
    omega

theorem isIdle_completeFrame {s : State} (h : s.isCompletionPending = true) : (completeFrame s).isIdle = true := by
  obtain ⟨-, hf, -, hd, -⟩ := isCompletionPending_iff.mp h
  exact isIdle_iff.mpr ⟨rfl, hf, rfl, hd, rfl⟩

theorem isFaulted_dmaError {s : State} (h : s.isTransferring = true) : (dmaError s).isFaulted = true := by
  obtain ⟨hb, -⟩ := isTransferring_iff.mp h
  exact isFaulted_iff.mpr ⟨hb, rfl, rfl, rfl, rfl⟩

theorem isIdle_resetStep (s : State) : (resetStep s).isIdle = true := by
  simp [isIdle_iff]

/-- The transfer's counters stay in their ranges: they add up to `M` before and after an UPDATE. -/
theorem rangeInv_transferElement {s : State} (hM : s.build.frameLen ≤ 65535) (h : s.isTransferring = true)
    (hr : s.rangeInv = true) : (transferElement s).rangeInv = true := by
  obtain ⟨-, -, -, -, -, hsum, hc⟩ := isTransferring_iff.mp h
  obtain ⟨-, -, htmr⟩ := rangeInv_iff.mp hr
  obtain ⟨hp', hc'⟩ := toNat_transferElement (s := s) (by omega) hc
  rw [rangeInv_iff, hp', hc', transferElement_build]
  exact ⟨by omega, by omega, htmr⟩

/-- TMR_CNT at 0 is in range where DMA_PTR and DMA_CNT stay as they were. -/
theorem rangeInv_of_tmrCnt_zero {s t : State} (h : s.rangeInv = true) (hb : t.build = s.build)
    (hp : t.dmaPtr = s.dmaPtr) (hc : t.dmaCnt = s.dmaCnt) (ht : t.tmrCnt = 0) : t.rangeInv = true := by
  obtain ⟨h1, h2, h3⟩ := rangeInv_iff.mp h
  rw [rangeInv_iff, hb, hp, hc, ht]
  exact ⟨h1, h2, Nat.zero_lt_of_lt h3⟩

theorem rangeInv_armFrame {s : State} (hv : s.build.valid = true) : (armFrame s).rangeInv = true :=
  rangeInv_iff.mpr ⟨Nat.zero_le _, (toNat_frameLen_of_valid hv).le, periodTicks_pos_of_valid hv⟩

theorem rangeInv_resetStep {s : State} (h : s.rangeInv = true) : (resetStep s).rangeInv = true := by
  obtain ⟨-, -, h3⟩ := rangeInv_iff.mp h
  simp [rangeInv_iff, Nat.zero_lt_of_lt h3]

/-- The controller is in one of its phases, with its counters in their ranges. -/
def State.controllerInv (s : State) : Prop := s.phaseInv = true ∧ s.rangeInv = true

/-- The phases and the counters are not read from the frame buffer. -/
theorem controllerInv_withMem {s : State} (m : List Host.Cell) (h : s.controllerInv) :
    State.controllerInv { s with mem := m } := h

theorem updateEnabled_iff {s : State} :
    updateEnabled s = true ↔ s.tmrEn = true ∧ s.dmaEn = true ∧ 1 ≤ s.dmaCnt.toNat := by
  simp [updateEnabled, and_assoc]

/-- Each operation of the block leads from a phase to a phase (R144) and keeps the counters in range. -/
theorem controllerInv_kept : KeptByBlock State.controllerInv where
  same := by
    rintro s t ⟨_, _, _, _, _, _, rfl⟩ h
    exact h
  arm := by
    rintro s hv hb ⟨hp, -⟩
    exact ⟨phaseInv_iff.mpr (.inr (.inl (isTransferring_armFrame hv (isIdle_of_phaseInv hp hb)))), rangeInv_armFrame hv⟩
  pixel := by
    intro s i w _ h
    rw [writePixel_eq]
    exact controllerInv_withMem _ h
  update := by
    rintro s hv he ⟨hp, hr⟩
    obtain ⟨-, hd, -⟩ := updateEnabled_iff.mp he
    have htr := isTransferring_of_phaseInv hp hd
    have hM := frameLen_le_of_valid hv
    refine ⟨phaseInv_iff.mpr ?_, rangeInv_transferElement hM htr hr⟩
    rcases phase_transferElement hM htr with h | h
    · exact .inr (.inl h)
    · exact .inr (.inr (.inl h))
  idlePeriod := id
  complete := by
    rintro s ht ⟨hp, hr⟩
    exact ⟨phaseInv_iff.mpr (.inl (isIdle_completeFrame (isCompletionPending_of_phaseInv hp ht))),
      rangeInv_of_tmrCnt_zero hr rfl rfl rfl rfl⟩
  dmaError := by
    rintro s hd ⟨hp, hr⟩
    exact ⟨phaseInv_iff.mpr (.inr (.inr (.inr (isFaulted_dmaError (isTransferring_of_phaseInv hp hd))))),
      rangeInv_of_tmrCnt_zero hr rfl rfl rfl rfl⟩
  reset := by
    rintro s ⟨-, hr⟩
    exact ⟨phaseInv_iff.mpr (.inl (isIdle_resetStep s)), rangeInv_resetStep hr⟩

/-- Settles O35: the phases are told apart by their flags, and every operation of the block leads from a phase to a
phase with its counters in range. -/
theorem stepKeepsPhase : Obligations.StepKeepsPhase :=
  ⟨count_phases_le_one, fun _ _ hp hr h => controllerInv_kept.step h ⟨hp, hr⟩⟩

/-! The frame buffer. -/

/-- A pixel is written with codes alone (R113). -/
theorem slotCode_eq (b : Build) (w : BitVec 24) (j : Nat) :
    slotCode b w j = b.code0.setWidth 32 ∨ slotCode b w j = b.code1.setWidth 32 := by
  unfold slotCode code
  split
  · exact .inr rfl
  · exact .inl rfl

theorem resetElem_pixel {b : Build} {k : Nat} (h : k < b.pixelSlots) : resetElem b k = b.code0.setWidth 32 :=
  if_pos h

theorem resetElem_reset {b : Build} {k : Nat} (h : b.pixelSlots ≤ k) :
    resetElem b k = Config.resetCode.setWidth 32 :=
  if_neg (Nat.not_lt.mpr h)

/-- A frame buffer at its reset contents holds a code in every pixel slot and RESET_CODE in every reset slot. -/
theorem frameBufferInv_of_resetElem {s : State} (h : ∀ k, k < s.build.frameLen → readElem s k = resetElem s.build k) :
    s.frameBufferInv := by
  have hle : s.build.pixelSlots ≤ s.build.frameLen := by simp only [Build.pixelSlots, Build.frameLen]; omega
  refine ⟨fun k hk => .inl ?_, fun k hlo hhi => ?_⟩
  · rw [h k (by omega), resetElem_pixel hk]
  · rw [h k hhi, resetElem_reset hlo]

theorem frameBufferInv_resetStep (s : State) : (resetStep s).frameBufferInv := by
  refine frameBufferInv_of_resetElem fun k hk => ?_
  rw [resetStep_build] at hk ⊢
  exact readElem_resetStep s hk

theorem frameBufferInv_writePixel {s : State} {i : Nat} (w : BitVec 24) (hi : i < s.build.n) (h : s.frameBufferInv) :
    (writePixel i w s).frameBufferInv := by
  obtain ⟨hpix, hrst⟩ := h
  unfold State.frameBufferInv
  rw [writePixel_build]
  refine ⟨fun k hk => ?_, fun k hlo hhi => ?_⟩
  · by_cases hin : 24 * i ≤ k ∧ k < 24 * i + 24
    · obtain ⟨j, rfl⟩ := Nat.exists_eq_add_of_le hin.1
      rw [readElem_writePixel i w s (by omega)]
      exact slotCode_eq s.build w j
    · rw [readElem_writePixel_other i w s hin]
      exact hpix k hk
  · rw [readElem_writePixel_other i w s (by simp only [Build.pixelSlots] at hlo; omega)]
    exact hrst k hlo hhi

/-- SET_PIXEL and RESET alone write the frame buffer, and both write what R44 says. -/
theorem frameBufferInv_kept : KeptByBlock State.frameBufferInv where
  same := by
    rintro s t ⟨_, _, _, _, _, _, rfl⟩ h
    exact h
  arm := fun _ _ h => h
  pixel := frameBufferInv_writePixel
  update := fun _ _ h => h
  idlePeriod := id
  complete := fun _ h => h
  dmaError := fun _ h => h
  reset := fun _ => frameBufferInv_resetStep _

/-- Settles O36: every operation of the block keeps the contents R44 says. -/
theorem stepKeepsFrameBuffer : Obligations.StepKeepsFrameBuffer :=
  fun _ _ hs h => frameBufferInv_kept.step h hs

/-- Every write of the frame buffer keeps the memory's canonical form (log 8). -/
theorem memoryInv_kept : KeptByBlock (fun s => s.memoryInv = true) where
  same := by
    rintro s t ⟨_, _, _, _, _, _, rfl⟩ h
    exact h
  arm := fun _ _ h => h
  pixel := by
    intro s i w hi h
    unfold State.memoryInv
    rw [writePixel_build]
    exact wf_writePixel w hi h
  update := fun _ _ h => h
  idlePeriod := id
  complete := fun _ h => h
  dmaError := fun _ h => h
  reset := by
    intro s h
    unfold State.memoryInv
    rw [resetStep_build]
    exact wf_resetStep h

/-- Settles O37: every operation of the block keeps the canonical form. -/
theorem stepKeepsMemoryForm : Obligations.StepKeepsMemoryForm :=
  fun _ _ hs h => memoryInv_kept.step h hs

/-- No operation of the block writes the build parameters (R49). -/
theorem build_kept (b : Build) : KeptByBlock (fun s => s.build = b) where
  same := fun h hs => h.build_eq.trans hs
  arm := fun _ _ h => h
  pixel := fun w _ h => (writePixel_build _ w _).trans h
  update := fun _ _ h => h
  idlePeriod := id
  complete := fun _ h => h
  dmaError := fun _ h => h
  reset := fun h => (resetStep_build _).trans h

/-- Settles O39: every operation of the block keeps the build. -/
theorem stepKeepsBuild : Obligations.StepKeepsBuild :=
  fun s _ h => (build_kept s.build).step h rfl

end Sys2Proof.Machine
end

section
/-! SUPPORT. What an event writes of RESP, of WAVE, of the three flags and of the frame buffer. -/

namespace Sys2Proof.Machine

/-! RESP (R26, R80). -/

/-- An Issue step ends with the response of some status, the one response it adds (R80). -/
theorem issue_eq_respond (w : Command) (s : State) :
    ∃ st u, issue w s = .next (respond st u) ∧ u.responses = s.responses := by
  obtain ⟨t, ht⟩ := issue_next w s
  rcases issue_cases ht with ⟨st, rfl⟩ | ⟨-, rfl⟩ | ⟨-, index, bright, red, green, blue, -, rfl⟩
  · exact ⟨st, s, ht, rfl⟩
  · exact ⟨.ok, _, ht, rfl⟩
  · exact ⟨.ok, _, ht, writePixel_responses ..⟩

/-- No step of the hardware writes RESP or gives the host a response. -/
theorem hardware_keeps_resp {e : Event} {s t : State} (h : takeEvent e s = .next t)
    (he : e = .update ∨ e = .idlePeriod ∨ e = .complete ∨ e = .dmaError) :
    t.resp = s.resp ∧ t.responses = s.responses := by
  rcases takeEvent_cases h with ⟨-, rfl⟩ | ⟨w, rfl, -⟩ | ⟨a, rfl, -⟩ | ⟨-, -, -, rfl⟩ | ⟨-, -, rfl⟩ | ⟨-, -, rfl⟩ |
    ⟨-, -, rfl⟩ | ⟨rfl, -⟩
  · exact ⟨rfl, rfl⟩
  · simp at he
  · simp at he
  · exact ⟨rfl, rfl⟩
  · exact ⟨rfl, rfl⟩
  · exact ⟨rfl, rfl⟩
  · exact ⟨rfl, rfl⟩
  · simp at he

/-- Settles O10: an Issue step ends with `respond`, and the hardware's steps leave RESP alone. -/
theorem respWrittenByIssue : Obligations.RespWrittenByIssue := by
  refine ⟨fun w s => ?_, fun e s t h he => hardware_keeps_resp h he⟩
  obtain ⟨st, u, ht, hu⟩ := issue_eq_respond w s
  exact ⟨respond st u, st, ht, rfl, by rw [← hu]; rfl⟩

/-! WAVE (R35). -/

/-- What an event adds to WAVE: nothing, a compare value by a TIMER/DMA step, or the marker by RESET. -/
theorem EventEffect.wave_eq {s t : State} {e : Event} (h : EventEffect s e t) :
    (e ≠ .reset ∧ t.wave = s.wave) ∨
    ((e = .update ∨ e = .idlePeriod) ∧ ∃ v, t.wave = s.wave ++ [.value v]) ∨
    (e = .reset ∧ t.wave = s.wave ++ [.rst]) := by
  cases h with
  | quiet he ht => exact .inl ⟨he, ht.wave_eq⟩
  | arm _ he ht =>
    obtain ⟨w, -, rfl | ⟨v, rfl, -⟩⟩ := he
    · exact .inl ⟨by simp, ht.wave_eq⟩
    · exact .inl ⟨by simp, ht.wave_eq⟩
  | pixel i w _ he _ ht => exact .inl ⟨(by rintro rfl; cases he), ht.wave_eq.trans (writePixel_wave ..)⟩
  | update => exact .inr (.inl ⟨.inl rfl, _, rfl⟩)
  | idlePeriod => exact .inr (.inl ⟨.inr rfl, _, rfl⟩)
  | complete => exact .inl ⟨by simp, rfl⟩
  | dmaError => exact .inl ⟨by simp, rfl⟩
  | reset => exact .inr (.inr ⟨rfl, resetStep_wave s⟩)

/-- Settles O40, by the effects of an event on WAVE. -/
theorem waveOnlyGrows : Obligations.WaveOnlyGrows := by
  intro e s t h
  rcases (takeEvent_effect h).wave_eq with ⟨he, hw⟩ | ⟨he, v, hw⟩ | ⟨he, hw⟩
  · exact ⟨.inl hw, fun hr => absurd hr he⟩
  · refine ⟨.inr (.inl ⟨v, hw, he⟩), ?_⟩
    rintro rfl
    simp at he
  · exact ⟨.inr (.inr ⟨hw, he⟩), fun _ => hw⟩

/-! The three flags (R42). -/

/-- Who writes BUSY (R23). -/
theorem EventEffect.busy_eq {s t : State} {e : Event} (h : EventEffect s e t) :
    t.busy = s.busy ∨ (IssuesSubmit s e ∧ t.busy = true) ∨ (e = .complete ∧ s.tcPending = true ∧ t.busy = false) ∨
    (e = .reset ∧ t.busy = false) := by
  cases h with
  | quiet _ ht => exact .inl ht.busy_eq
  | arm _ he ht => exact .inr (.inl ⟨he, ht.busy_eq⟩)
  | pixel i w _ _ _ ht => exact .inl (ht.busy_eq.trans (writePixel_busy ..))
  | update => exact .inl rfl
  | idlePeriod => exact .inl rfl
  | complete he => exact .inr (.inr (.inl ⟨rfl, he, rfl⟩))
  | dmaError => exact .inl rfl
  | reset => exact .inr (.inr (.inr ⟨rfl, resetStep_busy s⟩))

/-- Who writes FAULT (R25). -/
theorem EventEffect.fault_eq {s t : State} {e : Event} (h : EventEffect s e t) :
    t.fault = s.fault ∨ (e = .dmaError ∧ s.dmaEn = true ∧ t.fault = true) ∨ (e = .reset ∧ t.fault = false) := by
  cases h with
  | quiet _ ht => exact .inl ht.fault_eq
  | arm _ _ ht => exact .inl ht.fault_eq
  | pixel i w _ _ _ ht => exact .inl (ht.fault_eq.trans (writePixel_fault ..))
  | update => exact .inl rfl
  | idlePeriod => exact .inl rfl
  | complete => exact .inl rfl
  | dmaError he => exact .inr (.inl ⟨rfl, he, rfl⟩)
  | reset => exact .inr (.inr ⟨rfl, resetStep_fault s⟩)

/-- Who writes TC_PENDING (R24). -/
theorem EventEffect.tcPending_eq {s t : State} {e : Event} (h : EventEffect s e t) :
    t.tcPending = s.tcPending ∨ (e = .update ∧ s.dmaCnt = 1 ∧ t.tcPending = true) ∨
    ((e = .complete ∨ e = .dmaError ∨ e = .reset) ∧ t.tcPending = false) := by
  cases h with
  | quiet _ ht => exact .inl ht.tcPending_eq
  | arm _ _ ht => exact .inl ht.tcPending_eq
  | pixel i w _ _ _ ht => exact .inl (ht.tcPending_eq.trans (writePixel_tcPending ..))
  | update =>
    by_cases hlast : s.dmaCnt - 1 = 0
    · exact .inr (.inl ⟨rfl, by bv_omega, if_pos hlast⟩)
    · exact .inl (if_neg hlast)
  | idlePeriod => exact .inl rfl
  | complete => exact .inr (.inr ⟨.inl rfl, rfl⟩)
  | dmaError => exact .inr (.inr ⟨.inr (.inl rfl), rfl⟩)
  | reset => exact .inr (.inr ⟨.inr (.inr rfl), resetStep_tcPending s⟩)

/-- A command writes no flag, except that an accepted SUBMIT_FRAME sets BUSY (R42). -/
theorem exec_flags {i : Instr} {s t : State} (h : exec i s = .next t) :
    t.fault = s.fault ∧ t.tcPending = s.tcPending ∧ (t.busy ≠ s.busy → i = .submitFrame ∧ t.busy = true) := by
  rcases exec_cases h with ⟨st, rfl⟩ | ⟨-, rfl, rfl⟩ | ⟨-, index, bright, red, green, blue, -, -, -, rfl⟩
  · exact ⟨rfl, rfl, fun hne => absurd rfl hne⟩
  · exact ⟨rfl, rfl, fun _ => ⟨rfl, rfl⟩⟩
  · simp

/-- Settles O41, by who writes each of the three flags. -/
theorem flagWriters : Obligations.FlagWriters := by
  refine ⟨fun e s t h => ?_, fun i s t h => exec_flags h⟩
  have heff := takeEvent_effect h
  refine ⟨fun h0 h1 => ?_, fun h1 h0 => ?_, fun h1 h0 => ?_, fun h0 h1 => ?_, fun h1 h0 => ?_, fun h0 h1 => ?_⟩
  · rcases heff.busy_eq with hb | ⟨he, -⟩ | ⟨-, -, hb⟩ | ⟨-, hb⟩
    · simp [h0, h1] at hb
    · exact he
    · simp [h1] at hb
    · simp [h1] at hb
  · rcases heff.busy_eq with hb | ⟨-, hb⟩ | ⟨he, hp, -⟩ | ⟨he, -⟩
    · simp [h0, h1] at hb
    · simp [h0] at hb
    · exact .inl ⟨he, hp⟩
    · exact .inr he
  · rcases heff.fault_eq with hf | ⟨-, -, hf⟩ | ⟨he, -⟩
    · simp [h0, h1] at hf
    · simp [h0] at hf
    · exact he
  · rcases heff.fault_eq with hf | ⟨he, hd, -⟩ | ⟨-, hf⟩
    · simp [h0, h1] at hf
    · exact ⟨he, hd⟩
    · simp [h1] at hf
  · rcases heff.tcPending_eq with ht | ⟨-, -, ht⟩ | ⟨he, -⟩
    · simp [h0, h1] at ht
    · simp [h0] at ht
    · exact he
  · rcases heff.tcPending_eq with ht | ⟨he, hc, -⟩ | ⟨-, ht⟩
    · simp [h0, h1] at ht
    · exact ⟨he, hc⟩
    · simp [h1] at ht

/-! The frame buffer while BUSY = 1 (R45). -/

/-- A busy controller's frame buffer is written by RESET alone. -/
theorem EventEffect.mem_eq_of_busy {s t : State} {e : Event} (h : EventEffect s e t) (hb : s.busy = true)
    (he : e ≠ .reset) : t.mem = s.mem := by
  cases h with
  | quiet _ ht => exact ht.mem_eq
  | arm hidle => simp [hb] at hidle
  | pixel i w hidle => simp [hb] at hidle
  | update => rfl
  | idlePeriod => rfl
  | complete => rfl
  | dmaError => rfl
  | reset => exact absurd rfl he

/-- No event writes the build parameters (R49). -/
theorem EventEffect.build_eq {s t : State} {e : Event} (h : EventEffect s e t) : t.build = s.build := by
  cases h with
  | quiet _ ht => exact ht.build_eq
  | arm _ _ ht => exact ht.build_eq
  | pixel i w _ _ _ ht => exact ht.build_eq.trans (writePixel_build ..)
  | update => rfl
  | idlePeriod => rfl
  | complete => rfl
  | dmaError => rfl
  | reset => exact resetStep_build s

/-- Settles O42: an idle controller's SET_PIXEL and RESET alone write the frame buffer. -/
theorem bufferNeverMutatedWhileBusy : Obligations.BufferNeverMutatedWhileBusy := by
  intro e s t hb he h
  have heff := takeEvent_effect h
  have hm := heff.mem_eq_of_busy hb he
  exact ⟨hm, readElem_congr heff.build_eq hm⟩

end Sys2Proof.Machine
end

section
/-! SUPPORT. A frame in flight: what WAVE has gained between SUBMIT_FRAME and COMPLETE (R68, R156). -/

namespace Sys2Proof.Machine

/-- A run of a first event and the rest is that event, then a run of the rest. -/
theorem runEvents_cons {e : Event} {es : List Event} {s t : State} (h : runEvents (e :: es) s = .next t) :
    ∃ u, takeEvent e s = .next u ∧ runEvents es u = .next t := by
  unfold runEvents at h
  split at h
  · next u hu => exact ⟨u, hu, h⟩
  · cases h
  · cases h

/-- An idle controller accepts SUBMIT_FRAME (R140). -/
theorem submitFrame_of_idle {s t : State} (hi : s.isIdle = true) (h : exec .submitFrame s = .next t) :
    SameBlock (armFrame s) t := by
  obtain ⟨hb, -⟩ := isIdle_iff.mp hi
  simp only [exec, execSubmitFrame_eq, hb, Host.Outcome.next.injEq] at h
  exact h ▸ .respond _ _

/-- A pending completion is taken (R151). -/
theorem takeEvent_complete {s : State} (h : s.tcPending = true) : takeEvent .complete s = .next (completeFrame s) :=
  if_pos h

/-- The values of the frame, element by element. -/
theorem frameValues_getElem? {s : State} {k : Nat} (hk : k < s.build.frameLen) :
    (frameValues s)[k]? = some (.value (compareBits (readElem s k))) := by
  simp [frameValues, hk]

theorem length_frameValues (s : State) : (frameValues s).length = s.build.frameLen := by
  simp [frameValues]

/-- Between an accepted SUBMIT_FRAME in `s` and its COMPLETE, with no DMA_ERROR and no RESET, the frame buffer is the one
SUBMIT_FRAME saw, and WAVE has gained the first DMA_PTR values of the frame and then copies of the last one (R68). -/
structure FrameInFlight (s u : State) : Prop where
  build : u.build = s.build
  mem : u.mem = s.mem
  phase : u.isTransferring = true ∨ u.isCompletionPending = true
  wave : ∃ k, u.wave = s.wave ++ (frameValues s).take u.dmaPtr.toNat ++ List.replicate k (.value u.ccr) ∧
    (u.tcPending = false → k = 0)
  lastValue : ∀ k, u.dmaPtr.toNat = k + 1 → u.ccr = compareBits (readElem s k)

namespace FrameInFlight

theorem phaseInv {s u : State} (h : FrameInFlight s u) : u.phaseInv = true :=
  phaseInv_iff.mpr (h.phase.elim (fun hp => .inr (.inl hp)) fun hp => .inr (.inr (.inl hp)))

theorem busy {s u : State} (h : FrameInFlight s u) : u.busy = true := by
  rcases h.phase with hp | hp
  · exact (isTransferring_iff.mp hp).1
  · exact (isCompletionPending_iff.mp hp).1

/-- An accepted SUBMIT_FRAME starts the frame, with nothing sent (R140). -/
theorem armFrame {s : State} (hv : s.build.valid = true) (h : s.isIdle = true) : FrameInFlight s (armFrame s) where
  build := rfl
  mem := rfl
  phase := .inl (isTransferring_armFrame hv h)
  wave := ⟨0, by simp, fun _ => rfl⟩
  lastValue := by simp

theorem sameBlock {s u t : State} (ht : SameBlock u t) (h : FrameInFlight s u) : FrameInFlight s t := by
  obtain ⟨_, _, _, _, _, _, rfl⟩ := ht
  exact ⟨h.build, h.mem, h.phase, h.wave, h.lastValue⟩

/-- An UPDATE sends the next value of the frame (R146). -/
theorem transferElement {s u : State} (hM : s.build.frameLen ≤ 65535) (h : FrameInFlight s u)
    (htr : u.isTransferring = true) : FrameInFlight s (transferElement u) := by
  obtain ⟨-, -, ht, -, -, hsum, hc⟩ := isTransferring_iff.mp htr
  rw [h.build] at hsum
  obtain ⟨hptr, -⟩ := toNat_transferElement (s := u) (by omega) hc
  have hread : readElem u u.dmaPtr.toNat = readElem s u.dmaPtr.toNat := readElem_congr h.build h.mem _
  refine ⟨h.build, h.mem, phase_transferElement (by rw [h.build]; exact hM) htr, ?_, fun k hk => ?_⟩
  · obtain ⟨k, hw, hk⟩ := h.wave
    obtain rfl := hk ht
    refine ⟨0, ?_, fun _ => rfl⟩
    rw [hptr, transferElement_wave, hw, hread, List.take_add_one, frameValues_getElem? (by omega)]
    simp
  · obtain rfl : k = u.dmaPtr.toNat := by omega
    rw [transferElement_ccr, hread]

/-- An IDLE_PERIOD repeats the last value of the frame (R149). -/
theorem idlePeriod {s u : State} (h : FrameInFlight s u) (hp : u.isCompletionPending = true) :
    FrameInFlight s (idlePeriod u) := by
  obtain ⟨-, -, ht, -⟩ := isCompletionPending_iff.mp hp
  refine ⟨h.build, h.mem, h.phase, ?_, h.lastValue⟩
  obtain ⟨k, hw, -⟩ := h.wave
  refine ⟨k + 1, ?_, fun hf => ?_⟩
  · simp only [idlePeriod_wave, idlePeriod_dmaPtr, idlePeriod_ccr, hw, List.replicate_succ', List.append_assoc]
  · simp [ht] at hf

/-- Every event but RESET, DMA_ERROR and COMPLETE keeps the frame in flight. -/
theorem effect {s u t : State} {e : Event} (hv : s.build.valid = true) (h : FrameInFlight s u) (he : EventEffect u e t)
    (hne : e ≠ .reset ∧ e ≠ .dmaError ∧ e ≠ .complete) : FrameInFlight s t := by
  obtain ⟨hreset, herror, hcomplete⟩ := hne
  cases he with
  | quiet _ ht => exact h.sameBlock ht
  | arm hb => simp [h.busy] at hb
  | pixel i w hb => simp [h.busy] at hb
  | update hu =>
    obtain ⟨-, hd, -⟩ := updateEnabled_iff.mp hu
    exact h.transferElement (frameLen_le_of_valid hv) (isTransferring_of_phaseInv h.phaseInv hd)
  | idlePeriod hi =>
    rcases h.phase with hp | hp
    · simp [idlePeriodEnabled, isTransferring_iff.mp hp] at hi
    · exact h.idlePeriod hp
  | complete => exact absurd rfl hcomplete
  | dmaError => exact absurd rfl herror
  | reset => exact absurd rfl hreset

theorem runEvents {s u t : State} {es : List Event} (hv : s.build.valid = true) (h : FrameInFlight s u)
    (hr : runEvents es u = .next t) (hne : ∀ e ∈ es, e ≠ .reset ∧ e ≠ .dmaError ∧ e ≠ .complete) :
    FrameInFlight s t := by
  induction es generalizing u with
  | nil => exact Host.Outcome.next.inj hr ▸ h
  | cons e es ih =>
    obtain ⟨v, he, hr⟩ := runEvents_cons hr
    exact ih (h.effect hv (takeEvent_effect he) (hne e (by simp))) hr fun e' he' => hne e' (by simp [he'])

/-- Where completion is pending the whole frame is out, and copies of its last value after it (R156). -/
theorem wave_of_tcPending {s u : State} (hv : s.build.valid = true) (h : FrameInFlight s u) (ht : u.tcPending = true) :
    ∃ k, u.wave = s.wave ++ frameValues s ++
      List.replicate k (.value (compareBits (readElem s (s.build.frameLen - 1)))) := by
  obtain ⟨-, -, -, -, -, hptr, -⟩ :=
    isCompletionPending_iff.mp (isCompletionPending_of_phaseInv h.phaseInv ht)
  rw [h.build] at hptr
  have hM := frameLen_pos_of_valid hv
  obtain ⟨k, hw, -⟩ := h.wave
  refine ⟨k, ?_⟩
  rw [hw, hptr, List.take_of_length_le (length_frameValues s).le, h.lastValue (s.build.frameLen - 1) (by omega)]

end FrameInFlight

/-! The frame of a frame buffer that is as R44 says. -/

theorem frameLen_eq (b : Build) : b.frameLen = 24 * b.n + 24 * b.r := Nat.mul_add ..

/-- A frame is its values of the pixel region and then those of the reset region. -/
theorem frameValues_eq_append (s : State) :
    frameValues s = (List.range (24 * s.build.n)).map (fun k => .value (compareBits (readElem s k))) ++
      (List.range (24 * s.build.r)).map (fun k => .value (compareBits (readElem s (24 * s.build.n + k)))) := by
  rw [frameValues, frameLen_eq, List.range_add, List.map_append, List.map_map]
  rfl

theorem take_frameValues (s : State) : (frameValues s).take (24 * s.build.n) =
    (List.range (24 * s.build.n)).map (fun k => .value (compareBits (readElem s k))) := by
  rw [frameValues_eq_append]
  exact List.take_left' (by simp)

/-- The compare register keeps a 16-bit code whole (R55). -/
theorem compareBits_setWidth (v : Half) : compareBits (v.setWidth 32) = v := by
  simp [compareBits]

/-- Every value of the pixel region is a code (R44). -/
theorem code_of_mem_take_frameValues {s : State} (h : s.frameBufferInv) {x : WaveEntry}
    (hx : x ∈ (frameValues s).take (24 * s.build.n)) : x = .value s.build.code0 ∨ x = .value s.build.code1 := by
  rw [take_frameValues, List.mem_map] at hx
  obtain ⟨k, hk, rfl⟩ := hx
  rcases h.1 k (List.mem_range.mp hk) with he | he
  · exact .inl (by rw [he, compareBits_setWidth])
  · exact .inr (by rw [he, compareBits_setWidth])

/-- Every value of the reset region is 0 (R11, R44). -/
theorem compareBits_resetRegion {s : State} (h : s.frameBufferInv) {k : Nat} (hlo : s.build.pixelSlots ≤ k)
    (hhi : k < s.build.frameLen) : compareBits (readElem s k) = 0 := by
  rw [h.2 k hlo hhi, compareBits_setWidth]
  rfl

/-- The frame is its pixel values and then `24R` zeros (R44). -/
theorem frameValues_eq_take_append {s : State} (h : s.frameBufferInv) :
    frameValues s = (frameValues s).take (24 * s.build.n) ++ List.replicate (24 * s.build.r) (.value 0) := by
  have hzero : (List.range (24 * s.build.r)).map
      (fun k => WaveEntry.value (compareBits (readElem s (24 * s.build.n + k)))) =
      List.replicate (24 * s.build.r) (.value 0) := by
    refine List.eq_replicate_iff.mpr ⟨by simp, fun x hx => ?_⟩
    obtain ⟨k, hk, rfl⟩ := List.mem_map.mp hx
    have := List.mem_range.mp hk
    have hlast := compareBits_resetRegion h (k := 24 * s.build.n + k) (Nat.le_add_right ..)
      (by rw [frameLen_eq]; omega)
    rw [hlast]
  rw [take_frameValues, ← hzero]
  exact frameValues_eq_append s

/-- The frame's last value is that of the last reset slot, 0 (R9, R44). -/
theorem lastValue_eq_zero {s : State} (hv : s.build.valid = true) (h : s.frameBufferInv) :
    compareBits (readElem s (s.build.frameLen - 1)) = 0 := by
  have hr := resetSlots_pos_of_valid hv
  have hM := frameLen_eq s.build
  exact compareBits_resetRegion h (by simp only [Build.pixelSlots]; omega) (by omega)

/-- Settles O46: the frame is out where its completion is pending, its last `24R` values are zeros, and so are the
copies of the last one. -/
theorem frameEndsInResetPeriods : Obligations.FrameEndsInResetPeriods := by
  intro s t u v es hv hi hfb ht hu hes hpend hcomplete
  have hflight := ((FrameInFlight.armFrame hv hi).sameBlock (submitFrame_of_idle hi ht)).runEvents hv hu hes
  obtain ⟨k, hw⟩ := hflight.wave_of_tcPending hv hpend
  rw [takeEvent_complete hpend, Host.Outcome.next.injEq] at hcomplete
  refine ⟨(frameValues s).take (24 * s.build.n), 24 * s.build.r + k, ?_, by omega,
    fun x hx => code_of_mem_take_frameValues hfb hx, ?_⟩
  · simp [take_frameValues]
  · calc v.wave = u.wave := by rw [← hcomplete, completeFrame_wave]
      _ = s.wave ++ frameValues s ++ List.replicate k (.value 0) := by rw [hw, lastValue_eq_zero hv hfb]
      _ = _ := by
        rw [List.replicate_add]
        conv_lhs => rw [frameValues_eq_take_append hfb]
        simp only [List.append_assoc]

end Sys2Proof.Machine
end

section
/-! SUPPORT. The values after power-on, and the host's accesses of the window's registers. -/

namespace Sys2Proof.Machine

/-! The frame buffer at power-on (R48). -/

/-- A byte of an element that is not listed reads as the element's reset contents. -/
theorem resetByte_slotAddr (b : Build) (k : Nat) {j : Nat} (hj : j < 4) :
    Memory.resetByte b (slotAddr b k + j) = byteOf (resetElem b k) j := by
  have hoff : slotAddr b k + j - b.fbBase = 4 * k + j := by simp only [slotAddr]; omega
  have hdiv : (4 * k + j) / 4 = k := by omega
  have hmod : (4 * k + j) % 4 = j := by omega
  simp only [Memory.resetByte, hoff, hdiv, hmod]

/-- With nothing listed every element reads its reset contents. -/
theorem readElem_of_mem_nil {s : State} (h : s.mem = []) (k : Nat) : readElem s k = resetElem s.build k := by
  have hbyte : ∀ j, j < 4 → readByte s (slotAddr s.build k + j) = byteOf (resetElem s.build k) j := fun j hj => by
    rw [← resetByte_slotAddr _ _ hj, readByte, h]
    rfl
  have h0 := hbyte 0 (by omega)
  rw [Nat.add_zero] at h0
  rw [readElem, memRead32, h0, hbyte 1 (by omega), hbyte 2 (by omega), hbyte 3 (by omega), bytes_append]

/-- The elements at power-on. -/
theorem readElem_powerOn (b : Build) (k : Nat) : readElem (State.powerOn b) k = resetElem b k :=
  readElem_of_mem_nil (s := State.powerOn b) rfl k

/-- RESET is always taken (R220). -/
theorem takeEvent_reset (s : State) : takeEvent .reset s = .next (resetStep s) := rfl

/-- Settles O49: no memory is listed at power-on, every register is 0, and RESET appends its marker. -/
theorem powerOnValues : Obligations.PowerOnValues := by
  intro b
  refine ⟨fun k hk => ?_, fun k hlo _ => ?_, rfl, rfl, rfl, rfl, rfl, rfl, rfl, rfl, rfl, rfl, rfl, rfl, rfl, rfl, ?_,
    fun s t h => ?_⟩
  · rw [readElem_powerOn, resetElem_pixel hk]
  · rw [readElem_powerOn, resetElem_reset hlo]
    rfl
  · simp [windowRead, State.powerOn, Config.resetCode]
  · rw [takeEvent_reset, Host.Outcome.next.injEq] at h
    rw [← h, resetStep_wave]

/-- The invariants at power-on of a valid build. -/
theorem powerOn_invariants {b : Build} (hv : b.valid = true) :
    (State.powerOn b).phaseInv = true ∧ (State.powerOn b).isIdle = true ∧ (State.powerOn b).rangeInv = true ∧
    (State.powerOn b).frameBufferInv ∧ (State.powerOn b).memoryInv = true := by
  have hidle : (State.powerOn b).isIdle = true := rfl
  have hrange : (State.powerOn b).rangeInv = true :=
    rangeInv_iff.mpr ⟨Nat.zero_le _, Nat.zero_le _, periodTicks_pos_of_valid hv⟩
  exact ⟨phaseInv_iff.mpr (.inl hidle), hidle, hrange, frameBufferInv_of_resetElem fun k _ => readElem_powerOn b k,
    wf_nil b⟩

/-- Settles O38: the power-on state of a valid build meets the invariants, and the build of `State.reset` is valid. -/
theorem invariantsAtReset : Obligations.InvariantsAtReset := by
  have hv : Config.build.valid = true := by decide
  obtain ⟨hphase, -, hrange, hfb, hmem⟩ := powerOn_invariants hv
  exact ⟨fun b => powerOn_invariants, hv, hphase, hrange, hfb, hmem⟩

/-! The register window (R54, R59). -/

/-- A 32-bit access at a 4-byte aligned offset is the window's, and acts on that offset's register. -/
theorem aligned32_offset (b : Build) {off : Nat} (ha : off % 4 = 0) : aligned32 b (b.mmioBase + off) 4 = true := by
  simp [aligned32, ha]

theorem touches_offset (b : Build) {off : Nat} (ho : off < 64) :
    touches b.mmioBase 64 (b.mmioBase + off) 4 = true := by
  simp only [touches, Bool.and_eq_true, decide_eq_true_eq]
  omega

/-- Reading a register answers its value and changes nothing else (R59). -/
theorem takeEvent_read_register (s : State) {off : Nat} (ho : off < 64) (ha : off % 4 = 0) :
    takeEvent (.access (.read (s.build.mmioBase + off) 4)) s =
      .next (reply (.data (windowRead s (windowReg off))) s) := by
  have : hostAccess (.read (s.build.mmioBase + off) 4) s =
      .next (reply (.data (windowRead s (windowReg off))) s) := by
    simp only [hostAccess, accessAddr, accessBytes, touches_offset _ ho, windowAccess, aligned32_offset _ ha,
      Nat.add_sub_cancel_left, if_true]
  exact this

/-- Writing a register does what the register's write does, and answers that it was taken (R59). -/
theorem takeEvent_write_register (s : State) (v : Word) {off : Nat} (ho : off < 64) (ha : off % 4 = 0) :
    takeEvent (.access (.write (s.build.mmioBase + off) 4 v)) s =
      replyOn .done (windowWrite (windowReg off) v s) := by
  have : hostAccess (.write (s.build.mmioBase + off) 4 v) s = replyOn .done (windowWrite (windowReg off) v s) := by
    simp only [hostAccess, accessAddr, accessBytes, touches_offset _ ho, windowAccess, aligned32_offset _ ha,
      Nat.add_sub_cancel_left, if_true]
  exact this

/-- Settles O51: each row names its register's value, and a read of a register changes nothing else. -/
theorem windowReads : Obligations.WindowReads := by
  intro s p hp
  have hrow : p.1 < 64 ∧ p.1 % 4 = 0 ∧ windowRead s (windowReg p.1) = p.2 := by
    simp only [List.mem_cons, List.not_mem_nil, or_false] at hp
    rcases hp with rfl | rfl | rfl | rfl | rfl | rfl | rfl | rfl | rfl | rfl <;>
      refine ⟨?_, ?_, rfl⟩ <;> simp
  obtain ⟨ho, ha, hread⟩ := hrow
  rw [takeEvent_read_register s ho ha, hread]
  rfl

/-- Only offsets 0x00 and 0x04 are the two registers that a write acts on. -/
theorem windowReg_ne_cmd {off : Nat} (h : 8 ≤ off) : windowReg off ≠ .cmdLo ∧ windowReg off ≠ .cmdHi := by
  unfold windowReg
  rw [if_neg (by omega), if_neg (by omega)]
  repeat' split
  all_goals exact ⟨nofun, nofun⟩

/-- A write of any register but CMD_LO and CMD_HI is ignored (R62). -/
theorem windowWrite_ignored {r : WindowReg} (hlo : r ≠ .cmdLo) (hhi : r ≠ .cmdHi) (v : Word) (s : State) :
    windowWrite r v s = .next s := by
  cases r with
  | cmdLo => exact absurd rfl hlo
  | cmdHi => exact absurd rfl hhi
  | _ => rfl

/-- Settles O52: CMD_LO stores what is written, and every register from offset 0x08 on ignores it. -/
theorem windowWrites : Obligations.WindowWrites := by
  intro s v
  refine ⟨takeEvent_write_register s v (off := 0) (by decide) rfl, fun k hlo hhi => ?_⟩
  obtain ⟨h1, h2⟩ := windowReg_ne_cmd (off := 4 * k) (by omega)
  rw [takeEvent_write_register s v (by omega) (by omega), windowWrite_ignored h1 h2]
  rfl

/-! STATUS and the response word (R36, R89). -/

theorem statusWord_getLsbD (s : State) : (statusWord s).getLsbD 0 = s.busy ∧ (statusWord s).getLsbD 1 = s.fault ∧
    ∀ k, 2 ≤ k → (statusWord s).getLsbD k = false := by
  unfold statusWord
  refine ⟨?_, ?_, fun k hk => ?_⟩
  · rw [BitVec.getLsbD_setWidth, BitVec.getLsbD_append]
    simp
  · rw [BitVec.getLsbD_setWidth, BitVec.getLsbD_append]
    simp
  · rw [BitVec.getLsbD_setWidth, BitVec.getLsbD_of_ge _ _ hk, Bool.and_false]

theorem respWord_getLsbD_flags (st : Status) (busy fault : Bool) :
    (respWord st busy fault).getLsbD 8 = busy ∧ (respWord st busy fault).getLsbD 9 = fault := by
  simp only [respWord, BitVec.getLsbD_setWidth, BitVec.getLsbD_append]
  simp

/-- Settles O56: STATUS and the response of QUERY_BUSY show the same two flags, and STATUS nothing else. -/
theorem statusAgreesWithQuery : Obligations.StatusAgreesWithQuery := by
  intro s
  obtain ⟨hbusy, hfault, hzero⟩ := statusWord_getLsbD s
  obtain ⟨hqbusy, hqfault⟩ := respWord_getLsbD_flags .ok s.busy s.fault
  exact ⟨respond .ok s, statusWord s, execQueryBusy_eq s,
    takeEvent_read_register s (off := 0x0C) (by decide) rfl, hbusy.trans hqbusy.symm, hfault.trans hqfault.symm, hzero⟩

end Sys2Proof.Machine
end

section
/-! SUPPORT. The DMA's reads of the frame buffer (R52, R58, R68, R69), and the host accesses that reach no register (R51,
R60). -/

namespace Sys2Proof.Machine

/-! The addresses the DMA uses (R58). -/

/-- A valid build's three base addresses are aligned: two to an element, the window to its 64 bytes (R14). -/
theorem bases_aligned_of_valid {b : Build} (hv : b.valid = true) :
    b.fbBase % 4 = 0 ∧ b.ccrAddr % 4 = 0 ∧ b.mmioBase % 64 = 0 := by
  simp [Build.valid, Build.parametersOk] at hv
  omega

/-- Settles O59: elements are 4 bytes apart from an aligned base. -/
theorem dmaAddressesAligned : Obligations.DmaAddressesAligned := by
  intro b k hv
  obtain ⟨hfb, hccr, -⟩ := bases_aligned_of_valid hv
  exact ⟨by simp only [slotAddr]; omega, hccr⟩

/-! UPDATE and the element it reads (R52). -/

/-- While transferring, the pointer is at an element of the frame (R46). -/
theorem dmaPtr_lt_of_isTransferring {s : State} (h : s.isTransferring = true) : s.dmaPtr.toNat < s.build.frameLen := by
  obtain ⟨-, -, -, -, -, hsum, hc⟩ := isTransferring_iff.mp h
  omega

/-- An enabled UPDATE is the step of R146. -/
theorem takeEvent_update {s : State} (h : updateEnabled s = true) : takeEvent .update s = updateStep s :=
  if_pos h

/-- Settles O28: an enabled UPDATE past the frame stops, and in a state of a phase an enabled UPDATE is one of the
transfer, whose pointer is inside the frame. -/
theorem updateOutsideFrameBuffer : Obligations.UpdateOutsideFrameBuffer := by
  refine ⟨fun s htmr hdma hcnt hptr => ?_, fun s hphase => ?_⟩
  · rw [takeEvent_update (updateEnabled_iff.mpr ⟨htmr, hdma, hcnt⟩)]
    exact if_neg (Nat.not_lt.mpr hptr)
  · by_cases hen : updateEnabled s = true
    · obtain ⟨-, hdma, -⟩ := updateEnabled_iff.mp hen
      have hptr := dmaPtr_lt_of_isTransferring (isTransferring_of_phaseInv hphase hdma)
      exact ⟨transferElement s, (takeEvent_update hen).trans (if_pos hptr)⟩
    · exact ⟨s, if_neg hen⟩

/-! The host's accesses that reach no register. -/

/-- A host access is always enabled (R192). -/
theorem takeEvent_access (a : BusAccess) (s : State) : takeEvent (.access a) s = hostAccess a s := rfl

/-- Settles O55: the window does not take the access, and the frame buffer's refusal comes next. -/
theorem hostCannotReachFrameBuffer : Obligations.HostCannotReachFrameBuffer := by
  intro s a hwindow hbuffer
  rw [takeEvent_access, hostAccess, hwindow, hbuffer]
  rfl

/-- In a valid build an access of another width, or at an unaligned address, is none the window defines (R59): the
window's base is aligned, so the offset is as unaligned as the address. -/
theorem aligned32_eq_false {b : Build} (hv : b.valid = true) {addr bytes : Nat} (h : bytes ≠ 4 ∨ addr % 4 ≠ 0) :
    aligned32 b addr bytes = false := by
  obtain ⟨-, -, hbase⟩ := bases_aligned_of_valid hv
  refine Bool.eq_false_iff.mpr fun hal => ?_
  simp only [aligned32, Bool.and_eq_true, beq_iff_eq, decide_eq_true_eq] at hal
  omega

/-- An access of the window that R59 does not define gets BusError (R60). -/
theorem windowAccess_busError {s : State} {a : BusAccess}
    (h : aligned32 s.build (accessAddr a) (accessBytes a) = false) : windowAccess a s = .next (reply .busError s) := by
  cases a with
  | read addr bytes => exact if_neg (Bool.eq_false_iff.mp h)
  | write addr bytes v => exact if_neg (Bool.eq_false_iff.mp h)

/-- Settles O54: the access is the window's, and none that R59 defines. -/
theorem busErrorChangesNothing : Obligations.BusErrorChangesNothing := by
  intro s addr bytes v hv hlo hhi hbad
  have htouch : touches s.build.mmioBase 64 addr bytes = true := by simp [touches, hlo, hhi]
  have hal := aligned32_eq_false hv hbad
  exact ⟨(if_pos htouch).trans (windowAccess_busError (a := .read addr bytes) hal),
    (if_pos htouch).trans (windowAccess_busError (a := .write addr bytes v) hal)⟩

/-! A frame from its SUBMIT_FRAME on (R68, R69). -/

/-- Settles O44: the frame stays in flight, and while it does the buffer, BUSY and WAVE are as R68 says. -/
theorem frameSnapshot : Obligations.FrameSnapshot := by
  intro s t u es hv hi ht hu hes
  have hflight := ((FrameInFlight.armFrame hv hi).sameBlock (submitFrame_of_idle hi ht)).runEvents hv hu hes
  exact ⟨hflight.mem, hflight.busy, hflight.wave⟩

/-- No event takes anything out of WAVE (R35). -/
theorem EventEffect.wave_extends {s t : State} {e : Event} (h : EventEffect s e t) : s.wave <+: t.wave := by
  rcases h.wave_eq with ⟨-, hw⟩ | ⟨-, v, hw⟩ | ⟨-, hw⟩
  · exact ⟨[], by rw [hw, List.append_nil]⟩
  · exact ⟨[.value v], hw.symm⟩
  · exact ⟨[.rst], hw.symm⟩

/-- Every event but RESET leaves a faulted controller faulted (R187). -/
theorem EventEffect.isFaulted {s t : State} {e : Event} (h : EventEffect s e t) (hne : e ≠ .reset)
    (hs : s.isFaulted = true) : t.isFaulted = true := by
  obtain ⟨hb, -, htc, hdma, htmr⟩ := isFaulted_iff.mp hs
  cases h with
  | quiet _ ht =>
    obtain ⟨_, _, _, _, _, _, rfl⟩ := ht
    exact hs
  | arm hidle => simp [hb] at hidle
  | pixel i w hidle => simp [hb] at hidle
  | update he => simp [updateEnabled_iff, hdma] at he
  | idlePeriod he => simp [idlePeriodEnabled, htmr] at he
  | complete he => simp [htc] at he
  | dmaError he => simp [hdma] at he
  | reset => exact absurd rfl hne

/-- Without RESET, what the events of a run keep the run keeps. -/
theorem runEvents_keeps {P : State → Prop}
    (hP : ∀ {e : Event} {s t : State}, e ≠ .reset → EventEffect s e t → P s → P t) {es : List Event} {s t : State}
    (h : runEvents es s = .next t) (hne : ∀ e ∈ es, e ≠ .reset) (hs : P s) : P t := by
  induction es generalizing s with
  | nil => exact Host.Outcome.next.inj h ▸ hs
  | cons e es ih =>
    obtain ⟨u, he, h⟩ := runEvents_cons h
    obtain ⟨hne, hnes⟩ := List.forall_mem_cons.mp hne
    exact ih h hnes (hP hne (takeEvent_effect he) hs)

/-- What has become of the frame submitted in `s`, where no RESET was taken: it is in flight, or an error on it has left
the controller faulted, or the whole of it was the first thing to be sent. -/
inductive FrameFate (s u : State) : Prop
  | inFlight (h : FrameInFlight s u)
  | faulted (h : u.isFaulted = true)
  | sent (h : s.wave ++ frameValues s <+: u.wave)

namespace FrameFate

/-- A frame in flight ends as sent by COMPLETE, as faulted by DMA_ERROR, and by nothing else but RESET. -/
theorem of_inFlight {s u t : State} {e : Event} (hv : s.build.valid = true) (h : FrameInFlight s u)
    (hne : e ≠ .reset) (he : EventEffect u e t) : FrameFate s t := by
  cases he with
  | quiet _ ht => exact .inFlight (h.sameBlock ht)
  | arm hidle => simp [h.busy] at hidle
  | pixel i w hidle => simp [h.busy] at hidle
  | update hu hp => exact .inFlight (h.effect hv (.update hu hp) (by simp))
  | idlePeriod hi => exact .inFlight (h.effect hv (.idlePeriod hi) (by simp))
  | complete hpend =>
    obtain ⟨k, hw⟩ := h.wave_of_tcPending hv hpend
    exact .sent ⟨_, hw.symm⟩
  | dmaError hdma => exact .faulted (isFaulted_dmaError (isTransferring_of_phaseInv h.phaseInv hdma))
  | reset => exact absurd rfl hne

/-- Without RESET a faulted controller stays faulted, and what is sent stays first in WAVE. -/
theorem effect {s u t : State} {e : Event} (hv : s.build.valid = true) (hne : e ≠ .reset) (he : EventEffect u e t)
    (h : FrameFate s u) : FrameFate s t := by
  cases h with
  | inFlight h => exact of_inFlight hv h hne he
  | faulted h => exact .faulted (he.isFaulted hne h)
  | sent h => exact .sent (h.trans he.wave_extends)

/-- Where BUSY is 0 the frame is neither in flight nor faulted (R69). -/
theorem sent_of_not_busy {s u : State} (h : FrameFate s u) (hb : u.busy = false) :
    s.wave ++ frameValues s <+: u.wave := by
  cases h with
  | inFlight h => simp [h.busy] at hb
  | faulted h => simp [isFaulted_iff, hb] at h
  | sent h => exact h

end FrameFate

/-- Settles O47: of the three fates of the frame, only the sent one leaves BUSY at 0. -/
theorem busyEndsAfterWholeFrame : Obligations.BusyEndsAfterWholeFrame := by
  intro s t u es hv hi ht hu hes hb
  have hstart : FrameFate s t := .inFlight ((FrameInFlight.armFrame hv hi).sameBlock (submitFrame_of_idle hi ht))
  obtain ⟨rest, hw⟩ := (runEvents_keeps (FrameFate.effect hv) hu hes hstart).sent_of_not_busy hb
  exact ⟨rest, hw.symm⟩

end Sys2Proof.Machine
end

section
/-! SUPPORT. The encoder and the decoder of command words: a word by the values of its fields, the decoder's answers as one
relation, the opcode map and the assembler (R81 to R87, R93). -/

namespace Sys2Proof

/-! A word and its fields as numbers (R81). -/

theorem toNat_append_eq_add {m n : Nat} (x : BitVec m) (y : BitVec n) :
    (x ++ y).toNat = x.toNat * 2 ^ n + y.toNat := by
  rw [BitVec.toNat_append, ← Nat.shiftLeft_add_eq_or_of_lt y.isLt, Nat.shiftLeft_eq]

/-- The word of SET_PIXEL as a number: `2^60` for OP = 1, and each operand at its field's lowest bit (R81, R83). -/
theorem toNat_encode_setPixel (index : BitVec 16) (bright red green blue : Byte) :
    (encode (.setPixel index bright red green blue)).toNat =
      2 ^ 60 + bright.toNat * 2 ^ 48 + index.toNat * 2 ^ 32 + red.toNat * 2 ^ 16 + green.toNat * 2 ^ 8 + blue.toNat := by
  unfold encode
  iterate 7 rw [toNat_append_eq_add]
  simp only [BitVec.ofNat_eq_ofNat, BitVec.toNat_ofNat]
  omega

theorem toNat_extractLsb'_eq (w : Command) (start len : Nat) :
    (w.extractLsb' start len).toNat = w.toNat / 2 ^ start % 2 ^ len := by
  rw [BitVec.extractLsb'_toNat, Nat.shiftRight_eq_div_pow]

/-- A field has a value exactly when its bits of the word's number are that value. -/
theorem extractLsb'_eq_iff {w : Command} {start len : Nat} {x : BitVec len} :
    w.extractLsb' start len = x ↔ w.toNat / 2 ^ start % 2 ^ len = x.toNat := by
  rw [← BitVec.toNat_inj, toNat_extractLsb'_eq]

/-- The fields of the word written for SET_PIXEL: OP 1, the reserved fields 0, and the operands (R81, R83). -/
theorem fields_encode_setPixel (index : BitVec 16) (bright red green blue : Byte) {w : Command}
    (hw : encode (.setPixel index bright red green blue) = w) :
    opField w = 1 ∧ rsv0Field w = 0 ∧ rsv1Field w = 0 ∧
    indexField w = index ∧ brightField w = bright ∧ redField w = red ∧ greenField w = green ∧ blueField w = blue := by
  have h := toNat_encode_setPixel index bright red green blue
  rw [hw] at h
  simp only [opField, rsv0Field, rsv1Field, indexField, brightField, redField, greenField, blueField, extractLsb'_eq_iff, h,
    BitVec.ofNat_eq_ofNat, BitVec.toNat_ofNat]
  refine ⟨?_, ?_, ?_, ?_, ?_, ?_, ?_, ?_⟩ <;> omega

/-- A word with OP 1 and zero reserved fields is the word written for SET_PIXEL with its operand fields (R81, R84). -/
theorem encode_setPixel_fields {w : Command} (hop : opField w = 1) (h0 : rsv0Field w = 0) (h1 : rsv1Field w = 0) :
    encode (.setPixel (indexField w) (brightField w) (redField w) (greenField w) (blueField w)) = w := by
  simp only [opField, rsv0Field, rsv1Field, extractLsb'_eq_iff, BitVec.ofNat_eq_ofNat, BitVec.toNat_ofNat] at hop h0 h1
  apply BitVec.eq_of_toNat_eq
  rw [toNat_encode_setPixel]
  simp only [indexField, brightField, redField, greenField, blueField, toNat_extractLsb'_eq]
  omega

/-- OP and the 60 bits below it make up the word. -/
theorem opField_append_operandBits (w : Command) : opField w ++ operandBits w = w := by
  apply BitVec.eq_of_toNat_eq
  rw [toNat_append_eq_add]
  simp only [opField, operandBits, toNat_extractLsb'_eq]
  omega

/-! The decoder's answers, as one relation (R86). -/

/-- Which words decode to which answer, by the words' fields (R84 to R87). -/
inductive DecodesTo (w : Command) : Decoded → Prop
  | setPixel (hop : opField w = 1) (h0 : rsv0Field w = 0) (h1 : rsv1Field w = 0) :
      DecodesTo w (.command (.setPixel (indexField w) (brightField w) (redField w) (greenField w) (blueField w)))
  | submitFrame (hop : opField w = 2) (hbits : operandBits w = 0) : DecodesTo w (.command .submitFrame)
  | queryBusy (hop : opField w = 3) (hbits : operandBits w = 0) : DecodesTo w (.command .queryBusy)
  | undefinedOp (hop : opField w = 0 ∨ 4 ≤ (opField w).toNat) : DecodesTo w (.illegal .undefinedOp)
  | reservedField (hop : opField w = 1) (hrsv : rsv0Field w ≠ 0 ∨ rsv1Field w ≠ 0) :
      DecodesTo w (.illegal .reservedField)
  | reservedOperands (hop : opField w = 2 ∨ opField w = 3) (hbits : operandBits w ≠ 0) :
      DecodesTo w (.illegal .reservedOperands)

theorem decodesTo_decode (w : Command) : DecodesTo w (decode w) := by
  unfold decode
  split
  · next hop =>
    split
    · next hrsv => exact .reservedField hop hrsv
    · next hrsv =>
      obtain ⟨h0, h1⟩ := not_or.mp hrsv
      exact .setPixel hop (not_not.mp h0) (not_not.mp h1)
  · next hop1 =>
    split
    · next hop =>
      split
      · next hbits => exact .reservedOperands (.inl hop) hbits
      · next hbits => exact .submitFrame hop (not_not.mp hbits)
    · next hop2 =>
      split
      · next hop =>
        split
        · next hbits => exact .reservedOperands (.inr hop) hbits
        · next hbits => exact .queryBusy hop (not_not.mp hbits)
      · next hop3 => exact .undefinedOp (by bv_omega)

theorem decode_eq_iff {w : Command} {d : Decoded} : decode w = d ↔ DecodesTo w d := by
  refine ⟨fun h => h ▸ decodesTo_decode w, fun h => ?_⟩
  cases h with
  | setPixel hop h0 h1 => simp [decode, hop, h0, h1]
  | submitFrame hop hbits => simp [decode, hop, hbits]
  | queryBusy hop hbits => simp [decode, hop, hbits]
  | undefinedOp hop =>
    obtain ⟨h1, h2, h3⟩ : opField w ≠ 1 ∧ opField w ≠ 2 ∧ opField w ≠ 3 := by bv_omega
    simp only [decode, if_neg h1, if_neg h2, if_neg h3]
  | reservedField hop hrsv => simp only [decode, if_pos hop, if_pos hrsv]
  | reservedOperands hop hbits => rcases hop with hop | hop <;> simpa [decode, hop] using hbits

/-- Settles O6: the word has the fields of a SET_PIXEL word. -/
theorem operandsAreFields : Obligations.OperandsAreFields :=
  fun _ hop h0 h1 => decode_eq_iff.mpr (.setPixel hop h0 h1)

/-- Settles O3: each of the three kinds of word that decode to a command is made up of its fields. -/
theorem encodeOfDecode : Obligations.EncodeOfDecode := by
  intro w i h
  cases decode_eq_iff.mp h with
  | setPixel hop h0 h1 => exact encode_setPixel_fields hop h0 h1
  | submitFrame hop hbits => rw [← opField_append_operandBits w, hop, hbits]; rfl
  | queryBusy hop hbits => rw [← opField_append_operandBits w, hop, hbits]; rfl

/-- Settles O2: the word written for SET_PIXEL has the command's operands in its fields, and the other two commands have
one word each. -/
theorem decodeOfEncode : Obligations.DecodeOfEncode := by
  intro i
  cases i with
  | setPixel index bright red green blue =>
    obtain ⟨hop, h0, h1, hi, hp, hr, hg, hb⟩ := fields_encode_setPixel index bright red green blue rfl
    have h := DecodesTo.setPixel hop h0 h1
    rw [hi, hp, hr, hg, hb] at h
    exact decode_eq_iff.mpr h
  | submitFrame => decide
  | queryBusy => decide

/-- The words that decode to a command are the words written for it. -/
theorem decode_eq_command_iff {w : Command} {i : Instr} : decode w = .command i ↔ encode i = w :=
  ⟨encodeOfDecode w i, fun h => h ▸ decodeOfEncode i⟩

/-! The opcode map (R85). -/

/-- A field that a row's mask covers has the row's value in every word the row selects. -/
theorem extractLsb'_of_selects {w mask pattern : Command} (h : w &&& mask = pattern) {start len : Nat}
    (hmask : mask.extractLsb' start len = BitVec.allOnes len) : w.extractLsb' start len = pattern.extractLsb' start len := by
  rw [← h, BitVec.extractLsb'_and, hmask, BitVec.and_allOnes]

/-- A word that a row selects is the word written for a command of that row. -/
theorem exists_encode_of_selects {row : OpcodeRow} {w : Command} (hrow : row ∈ opcodeMap)
    (h : w &&& row.mask = row.pattern) : ∃ i, encode i = w ∧ i.row = row := by
  simp only [opcodeMap, List.mem_cons, List.not_mem_nil, or_false] at hrow
  rcases hrow with rfl | rfl | rfl
  · exact ⟨_, encode_setPixel_fields (extractLsb'_of_selects h (by decide)) (extractLsb'_of_selects h (by decide))
      (extractLsb'_of_selects h (by decide)), rfl⟩
  · exact ⟨.submitFrame, h.symm.trans BitVec.and_allOnes, rfl⟩
  · exact ⟨.queryBusy, h.symm.trans BitVec.and_allOnes, rfl⟩

/-- The row of a command selects the word written for it. -/
theorem selects_encode (i : Instr) : encode i &&& i.row.mask = i.row.pattern := by
  refine beq_iff_eq.mp (show i.row.selects (encode i) = true from ?_)
  cases i with
  | setPixel index bright red green blue => exact Laws.EncodesToRow.setPixel ..
  | submitFrame => exact Laws.EncodesToRow.submitFrame
  | queryBusy => exact Laws.EncodesToRow.queryBusy

/-- Settles O4: a row selects the words written for its commands, and a word is written for one command at most. -/
theorem decodeFollowsOpcodeMap : Obligations.DecodeFollowsOpcodeMap := by
  refine ⟨fun row w hrow => ⟨fun h => ?_, ?_⟩, fun r₁ r₂ w h₁ h₂ hw₁ hw₂ => ?_⟩
  · obtain ⟨i, hi, hr⟩ := exists_encode_of_selects hrow h
    exact ⟨i, decode_eq_command_iff.mpr hi, hr⟩
  · rintro ⟨i, hi, rfl⟩
    rw [← encodeOfDecode w i hi]
    exact selects_encode i
  · obtain ⟨i, rfl, rfl⟩ := exists_encode_of_selects h₁ hw₁
    obtain ⟨j, hj, rfl⟩ := exists_encode_of_selects h₂ hw₂
    have hdecode : decode (encode i) = .command j := decode_eq_command_iff.mpr hj
    rw [decodeOfEncode i, Decoded.command.injEq] at hdecode
    rw [hdecode]

/-! The illegal words (R87). -/

theorem decode_illegal_iff (w : Command) : (∃ why, decode w = .illegal why) ↔
    (opField w = 0 ∨ 4 ≤ (opField w).toNat) ∨
    (opField w = 1 ∧ (rsv0Field w ≠ 0 ∨ rsv1Field w ≠ 0)) ∨
    ((opField w = 2 ∨ opField w = 3) ∧ operandBits w ≠ 0) := by
  constructor
  · rintro ⟨why, h⟩
    cases decode_eq_iff.mp h with
    | undefinedOp hop => exact .inl hop
    | reservedField hop hrsv => exact .inr (.inl ⟨hop, hrsv⟩)
    | reservedOperands hop hbits => exact .inr (.inr ⟨hop, hbits⟩)
  · rintro (hop | ⟨hop, hrsv⟩ | ⟨hop, hbits⟩)
    · exact ⟨_, decode_eq_iff.mpr (.undefinedOp hop)⟩
    · exact ⟨_, decode_eq_iff.mpr (.reservedField hop hrsv)⟩
    · exact ⟨_, decode_eq_iff.mpr (.reservedOperands hop hbits)⟩

/-- Settles O5: the decoder's three illegal answers, and an illegal word's Issue leaves a response alone. -/
theorem illegalWords : Obligations.IllegalWords := by
  refine fun w => ⟨decode_illegal_iff w, fun s h => ?_⟩
  obtain ⟨why, hwhy⟩ := h
  exact Machine.issue_illegal hwhy s

/-! The assembler (R93). -/

/-- R93's formula as a sum: in range, its four terms share no bit. -/
theorem asm_or_eq_add {index rrggbb bright : Nat} (hi : index ≤ 65535) (hc : rrggbb ≤ 0xFFFFFF) (hp : bright ≤ 255) :
    (0x1 <<< 60) ||| (bright <<< 48) ||| (index <<< 32) ||| rrggbb =
      2 ^ 60 + bright * 2 ^ 48 + index * 2 ^ 32 + rrggbb := by
  rw [Nat.or_assoc, Nat.or_assoc, ← Nat.shiftLeft_add_eq_or_of_lt (by omega : rrggbb < 2 ^ 32),
    ← Nat.shiftLeft_add_eq_or_of_lt (by omega : index <<< 32 + rrggbb < 2 ^ 48),
    ← Nat.shiftLeft_add_eq_or_of_lt (by omega : bright <<< 48 + (index <<< 32 + rrggbb) < 2 ^ 60)]
  omega

/-- In range, the assembler writes the word of SET_PIXEL with the operands as written. -/
theorem assemble_setPixel {index rrggbb bright : Nat} (hi : index ≤ 65535) (hc : rrggbb ≤ 0xFFFFFF) (hp : bright ≤ 255) :
    assemble (.setPixel index rrggbb bright) = some (encode (.setPixel (BitVec.ofNat 16 index) (BitVec.ofNat 8 bright)
      (BitVec.ofNat 8 (rrggbb / 2 ^ 16)) (BitVec.ofNat 8 (rrggbb / 2 ^ 8)) (BitVec.ofNat 8 rrggbb))) := by
  have hwf : (AsmCommand.setPixel index rrggbb bright).wellFormed = true := by
    simp [AsmCommand.wellFormed, hi, hc, hp]
  simp only [assemble, hwf, if_true, asm_or_eq_add hi hc hp, Option.some.injEq]
  apply BitVec.eq_of_toNat_eq
  rw [toNat_encode_setPixel]
  simp only [BitVec.toNat_ofNat]
  omega

/-- Settles O7: the assembler's word is the one the encoder writes for the operands, which decodes to them. -/
theorem assembledWordsDecode : Obligations.AssembledWordsDecode := by
  refine ⟨fun index rrggbb bright hi hc hp => ⟨_, assemble_setPixel hi hc hp, ?_, decodeOfEncode _⟩,
    fun index rrggbb bright h => ?_⟩
  · rw [toNat_encode_setPixel]
    simp only [BitVec.toNat_ofNat]
    omega
  · have hwf : (AsmCommand.setPixel index rrggbb bright).wellFormed = false := by
      simp only [AsmCommand.wellFormed, Bool.and_eq_false_iff, decide_eq_false_iff_not]
      omega
    simp [assemble, hwf]

/-- Settles O1: six closed words, evaluated. -/
theorem workedEncodings : Obligations.WorkedEncodings := by
  unfold Obligations.WorkedEncodings
  decide

end Sys2Proof
end

section
/-! SUPPORT. The response word and the values it takes (R80, R89). -/

namespace Sys2Proof.Machine

/-! The layout (R89). -/

theorem respWord_extractLsb'_status (st : Status) (busy fault : Bool) :
    (respWord st busy fault).extractLsb' 0 2 = st.bits := by
  unfold respWord
  rw [BitVec.extractLsb'_setWidth_of_le (by decide), BitVec.extractLsb'_append_eq_of_add_le (by decide)]
  exact BitVec.extractLsb'_eq_self

theorem respWord_getLsbD_zero (st : Status) (busy fault : Bool) {k : Nat} (hk : (2 ≤ k ∧ k < 8) ∨ 10 ≤ k) :
    (respWord st busy fault).getLsbD k = false := by
  unfold respWord
  rw [BitVec.getLsbD_setWidth]
  rcases hk with ⟨hlo, hhi⟩ | hk
  · have hlow : (BitVec.ofBool fault ++ BitVec.ofBool busy ++ (0 : BitVec 6) ++ st.bits).getLsbD k = false := by
      rw [BitVec.getLsbD_append, if_neg (by omega), BitVec.getLsbD_append, if_pos (by omega)]
      simp
    rw [hlow, Bool.and_false]
  · rw [BitVec.getLsbD_of_ge _ _ hk, Bool.and_false]

/-! The eleven values (R89): a fault keeps BUSY at 1, and DEVICE_BUSY answers a busy controller. -/

/-- A status and flags that can be answered together: FAULT = 1 only with BUSY = 1, DEVICE_BUSY only with BUSY = 1. -/
def CanRespond (st : Status) (busy fault : Bool) : Prop :=
  (fault = true → busy = true) ∧ (st = .deviceBusy → busy = true)

theorem respWord_mem_eleven {st : Status} {busy fault : Bool} (h : CanRespond st busy fault) :
    respWord st busy fault ∈ elevenResponses := by
  obtain ⟨hf, hd⟩ := h
  cases busy with
  | true => cases st <;> cases fault <;> decide
  | false =>
    cases fault with
    | true => cases hf rfl
    | false =>
      cases st with
      | ok => decide
      | invalidParameter => decide
      | deviceBusy => cases hd rfl
      | illegalCommand => decide

/-- The eleven values, as the statuses and flags they show. -/
theorem exists_of_mem_eleven {w : Word} (h : w ∈ elevenResponses) :
    ∃ st busy fault, CanRespond st busy fault ∧ respWord st busy fault = w := by
  have heleven : elevenResponses = [
      respWord .ok false false, respWord .ok true false, respWord .ok true true,
      respWord .invalidParameter false false, respWord .invalidParameter true false, respWord .invalidParameter true true,
      respWord .deviceBusy true false, respWord .deviceBusy true true,
      respWord .illegalCommand false false, respWord .illegalCommand true false, respWord .illegalCommand true true] := by
    decide
  rw [heleven] at h
  simp only [List.mem_cons, List.not_mem_nil, or_false] at h
  rcases h with rfl | rfl | rfl | rfl | rfl | rfl | rfl | rfl | rfl | rfl | rfl <;>
    exact ⟨_, _, _, ⟨by decide, by decide⟩, rfl⟩

/-- In a state of a phase FAULT = 1 only with BUSY = 1 (R45, R46). -/
theorem busy_of_fault {s : State} (h : s.phaseInv = true) (hf : s.fault = true) : s.busy = true := by
  by_contra hb
  obtain ⟨-, hfault, -⟩ := isIdle_iff.mp (isIdle_of_phaseInv h (by simpa using hb))
  simp [hf] at hfault

/-- An Issue step of a controller that is not both idle and faulted answers a status and flags that go together: a command
that arms sets BUSY, and DEVICE_BUSY leaves a busy controller as it is (R80, R142, R183). -/
theorem issue_canRespond (w : Command) {s : State} (hs : s.fault = true → s.busy = true) :
    ∃ st u, issue w s = .next (respond st u) ∧ u.responses = s.responses ∧ CanRespond st u.busy u.fault := by
  cases hd : decode w with
  | illegal why => exact ⟨_, s, issue_illegal hd s, rfl, hs, nofun⟩
  | command i =>
    rw [issue_command hd]
    cases i with
    | setPixel index bright red green blue =>
      simp only [exec, execSetPixel_eq]
      split
      · exact ⟨_, s, rfl, rfl, hs, nofun⟩
      · split
        · next hb => exact ⟨_, s, rfl, rfl, hs, fun _ => hb⟩
        · exact ⟨_, _, rfl, writePixel_responses .., by simpa using hs, nofun⟩
    | submitFrame =>
      simp only [exec, execSubmitFrame_eq]
      split
      · next hb => exact ⟨_, s, rfl, rfl, hs, fun _ => hb⟩
      · exact ⟨_, _, rfl, rfl, fun _ => rfl, fun _ => rfl⟩
    | queryBusy => exact ⟨_, s, execQueryBusy_eq s, rfl, hs, nofun⟩

/-- From a state of a phase an event adds at most one response, one of the eleven (R89). -/
theorem takeEvent_responses {s t : State} {e : Event} (hp : s.phaseInv = true) (h : takeEvent e s = .next t) :
    t.responses = s.responses ∨ ∃ w ∈ elevenResponses, t.responses = s.responses ++ [w] := by
  have hissue {w : Command} {u : State} (hu : issue w s = .next u) :
      ∃ r ∈ elevenResponses, u.responses = s.responses ++ [r] := by
    obtain ⟨st, v, hv, hresp, hcan⟩ := issue_canRespond w (busy_of_fault hp)
    obtain rfl : respond st v = u := Host.Outcome.next.inj (hv.symm.trans hu)
    exact ⟨_, respWord_mem_eleven hcan, by rw [respond_responses, hresp]⟩
  rcases takeEvent_cases h with ⟨-, rfl⟩ | ⟨w, rfl, h⟩ | ⟨a, rfl, h⟩ | ⟨-, -, -, rfl⟩ | ⟨-, -, rfl⟩ | ⟨-, -, rfl⟩ |
    ⟨-, -, rfl⟩ | ⟨-, rfl⟩
  · exact .inl rfl
  · exact .inr (hissue h)
  · rcases hostAccess_cases h with ⟨r, rfl⟩ | ⟨v, rfl⟩ | ⟨v, u, -, hu, rfl⟩
    · exact .inl rfl
    · exact .inl rfl
    · obtain ⟨r, hr, hresp⟩ := hissue hu
      exact .inr ⟨r, hr, hresp⟩
  · exact .inl rfl
  · exact .inl rfl
  · exact .inl rfl
  · exact .inl rfl
  · exact .inl (resetStep_responses s)

/-! Each of the eleven values occurs. -/

/-- Every status can be answered in every state without any other change, DEVICE_BUSY where BUSY = 1. -/
theorem exists_issue_respond {st : Status} {s : State} (h : st = .deviceBusy → s.busy = true) :
    ∃ cmd, issue cmd s = .next (respond st s) := by
  cases st with
  | ok => exact ⟨encode .queryBusy, issue_command (decodeOfEncode _) s⟩
  | invalidParameter =>
    refine ⟨encode (.setPixel 0 101 0 0 0), (issue_command (decodeOfEncode _) s).trans ?_⟩
    exact (execSetPixel_eq ..).trans (congrArg _ (if_pos (.inr (by decide))))
  | deviceBusy =>
    refine ⟨encode .submitFrame, (issue_command (decodeOfEncode _) s).trans ?_⟩
    exact (execSubmitFrame_eq s).trans (congrArg _ (if_pos (h rfl)))
  | illegalCommand => exact ⟨0, issue_illegal (decode_eq_iff.mpr (.undefinedOp (.inl rfl))) s⟩

/-- An idle, a transferring and a faulted controller show the three values of the flags (R45, R46). -/
theorem exists_phase_of_flags {busy fault : Bool} (h : fault = true → busy = true) :
    ∃ s : State, s.phaseInv = true ∧ s.busy = busy ∧ s.fault = fault := by
  have harmed : (armFrame State.reset).isTransferring = true := isTransferring_armFrame (by decide) rfl
  cases fault with
  | true =>
    refine ⟨dmaError (armFrame State.reset), phaseInv_iff.mpr ?_, (h rfl).symm, rfl⟩
    exact .inr (.inr (.inr (isFaulted_dmaError harmed)))
  | false =>
    cases busy with
    | true => exact ⟨armFrame State.reset, phaseInv_iff.mpr (.inr (.inl harmed)), rfl, rfl⟩
    | false => exact ⟨State.reset, phaseInv_iff.mpr (.inl rfl), rfl, rfl⟩

/-- Settles O9: the statuses and flags that can be answered together are the eleven, and each is answered. -/
theorem responseWords : Obligations.ResponseWords := by
  refine ⟨fun st busy fault => ?_, fun s t e => takeEvent_responses, fun w hw => ?_⟩
  · obtain ⟨hbusy, hfault⟩ := respWord_getLsbD_flags st busy fault
    exact ⟨respWord_extractLsb'_status st busy fault, hbusy, hfault, fun k => respWord_getLsbD_zero st busy fault⟩
  · obtain ⟨st, busy, fault, ⟨hf, hd⟩, rfl⟩ := exists_of_mem_eleven hw
    obtain ⟨s, hphase, rfl, rfl⟩ := exists_phase_of_flags hf
    obtain ⟨cmd, hcmd⟩ := exists_issue_respond hd
    exact ⟨s, respond st s, cmd, hphase, hcmd, rfl⟩

end Sys2Proof.Machine
end

section
/-! SUPPORT. A command written in two halves through the window (R39, R92). -/

namespace Sys2Proof.Machine

/-- The state with another CMD_LO and another answer of the bus, which no command reads or writes. -/
def withPort (lo : Word) (r : BusReply) (s : State) : State := { s with cmdLo := lo, busReply := r }

@[simp] theorem withPort_build (lo : Word) (r : BusReply) (s : State) : (withPort lo r s).build = s.build := rfl
@[simp] theorem withPort_busy (lo : Word) (r : BusReply) (s : State) : (withPort lo r s).busy = s.busy := rfl
@[simp] theorem reply_withPort (lo : Word) (r r' : BusReply) (s : State) :
    reply r' (withPort lo r s) = withPort lo r' s := rfl
@[simp] theorem respond_withPort (st : Status) (lo : Word) (r : BusReply) (s : State) :
    respond st (withPort lo r s) = withPort lo r (respond st s) := rfl

theorem fillElems_withPort (f : Nat → Word) (start count : Nat) (lo : Word) (r : BusReply) (s : State) :
    fillElems f start count (withPort lo r s) = withPort lo r (fillElems f start count s) := by
  induction count generalizing start s with
  | zero => rfl
  | succ n ih => exact ih (start + 1) (writeElem s start (f start))

@[simp] theorem writePixel_withPort (i : Nat) (w : BitVec 24) (lo : Word) (r : BusReply) (s : State) :
    writePixel i w (withPort lo r s) = withPort lo r (writePixel i w s) :=
  fillElems_withPort ..

/-- A command does the same whatever CMD_LO and the bus's last answer are, and leaves both. -/
theorem exec_withPort {i : Instr} {s u : State} (h : exec i s = .next u) (lo : Word) (r : BusReply) :
    exec i (withPort lo r s) = .next (withPort lo r u) := by
  cases i with
  | setPixel index bright red green blue =>
    simp only [exec, execSetPixel_eq, Host.Outcome.next.injEq] at h ⊢
    simp only [← h, withPort_build, withPort_busy, writePixel_withPort, respond_withPort, apply_ite (withPort lo r)]
  | submitFrame =>
    simp only [exec, execSubmitFrame_eq, Host.Outcome.next.injEq] at h ⊢
    rw [← h, apply_ite (withPort lo r)]
    rfl
  | queryBusy =>
    simp only [exec, execQueryBusy_eq, Host.Outcome.next.injEq] at h ⊢
    rw [← h, respond_withPort]

theorem issue_withPort {w : Command} {s u : State} (h : issue w s = .next u) (lo : Word) (r : BusReply) :
    issue w (withPort lo r s) = .next (withPort lo r u) := by
  cases hd : decode w with
  | illegal why =>
    rw [issue_illegal hd, Host.Outcome.next.injEq] at h
    rw [issue_illegal hd, ← h]
    rfl
  | command i =>
    rw [issue_command hd] at h ⊢
    exact exec_withPort h lo r

/-- An Issue step leaves CMD_LO as it is (R39): it does the same with CMD_LO put to what it is. -/
theorem issue_keeps_cmdLo {w : Command} {s u : State} (h : issue w s = .next u) : u.cmdLo = s.cmdLo := by
  have hsame : issue w s = .next (withPort s.cmdLo s.busReply u) := issue_withPort h s.cmdLo s.busReply
  rw [Host.Outcome.next.inj (h.symm.trans hsame)]
  rfl

/-- A write of CMD_HI issues the word made of its value and CMD_LO, and answers that it was taken (R39, R92). -/
theorem takeEvent_write_cmdHi {s u : State} {v : Word} (h : issue (v ++ s.cmdLo) s = .next u) :
    takeEvent (.access (.write (s.build.mmioBase + 4) 4 v)) s = .next (reply .done u) := by
  rw [takeEvent_write_register s v (off := 4) (by decide) rfl]
  show replyOn .done (issue (v ++ s.cmdLo) s) = _
  rw [h]
  rfl

/-- A command written in two halves is issued whole, and leaves its low half in CMD_LO (R92). -/
theorem runEvents_write_halves {s u : State} {cmd : Command} (h : issue cmd s = .next u) :
    runEvents [.access (.write s.build.mmioBase 4 (cmd.extractLsb' 0 32)),
      .access (.write (s.build.mmioBase + 4) 4 (cmd.extractLsb' 32 32))] s =
      .next (withPort (cmd.extractLsb' 0 32) .done u) := by
  have hlo : takeEvent (.access (.write s.build.mmioBase 4 (cmd.extractLsb' 0 32))) s =
      .next (withPort (cmd.extractLsb' 0 32) .done s) :=
    takeEvent_write_register s _ (off := 0) (by decide) rfl
  have hword : cmd.extractLsb' 32 32 ++ cmd.extractLsb' 0 32 = cmd :=
    (BitVec.extractLsb'_append_extractLsb'_eq_extractLsb' rfl).trans BitVec.extractLsb'_eq_self
  have hissue : issue (cmd.extractLsb' 32 32 ++ cmd.extractLsb' 0 32) (withPort (cmd.extractLsb' 0 32) .done s) =
      .next (withPort (cmd.extractLsb' 0 32) .done u) := by
    rw [hword]
    exact issue_withPort h _ _
  have hhi := takeEvent_write_cmdHi (s := withPort (cmd.extractLsb' 0 32) .done s) (v := cmd.extractLsb' 32 32) hissue
  rw [withPort_build, reply_withPort] at hhi
  simp only [runEvents, hlo, hhi]

/-- Settles O53: a write of CMD_HI is an Issue step, and an Issue step does the same after the write of CMD_LO. -/
theorem commandHighIssues : Obligations.CommandHighIssues := by
  refine ⟨fun s v => ?_, fun s cmd => ?_⟩
  · obtain ⟨t, ht⟩ := issue_next (v ++ s.cmdLo) s
    exact ⟨t, ht, takeEvent_write_cmdHi ht, issue_keeps_cmdLo ht⟩
  · obtain ⟨u, hu⟩ := issue_next cmd s
    have hbuild : u.build = s.build := (takeEvent_effect (e := .issue cmd) hu).build_eq
    have hread := takeEvent_read_register (withPort (cmd.extractLsb' 0 32) .done u) (off := 8) (by decide) rfl
    refine ⟨_, u, runEvents_write_halves hu, hu, rfl, ?_⟩
    rw [← hbuild]
    exact hread

end Sys2Proof.Machine
end

section
/-! SUPPORT. The encoder's pure functions: scaling, packing, and the code of a bit and back (R110 to R115, R122). -/

namespace Sys2Proof.Machine

/-! Scale (R110, R111). -/

theorem scale_le (c : Nat) {p : Nat} (hp : p ≤ 100) : scale c p ≤ c :=
  Nat.div_le_of_le_mul ((Nat.mul_le_mul_left c hp).trans_eq (Nat.mul_comm c 100))

theorem scale_mono {c c' p p' : Nat} (hc : c ≤ c') (hp : p ≤ p') : scale c p ≤ scale c' p' :=
  Nat.div_le_div_right (Nat.mul_le_mul hc hp)

@[simp] theorem scale_zero_right (c : Nat) : scale c 0 = 0 := by simp [scale]
@[simp] theorem scale_hundred (c : Nat) : scale c 100 = c := Nat.mul_div_cancel c (by decide)
@[simp] theorem scale_zero_left (p : Nat) : scale 0 p = 0 := by simp [scale]

/-- A scaled channel fits its 8 bits (R111). -/
theorem scale_toNat_le (c : Byte) {p : Nat} (hp : p ≤ 100) : scale c.toNat p ≤ 255 :=
  (scale_le c.toNat hp).trans (Nat.le_of_lt_succ c.isLt)

/-- Settles O13: the bounds, the ends and the monotonicity of a product divided by 100, and two figures. -/
theorem scaleLaws : Obligations.ScaleLaws :=
  ⟨fun c p hp hc => ⟨scale_le c hp, (scale_le c hp).trans hc, scale_zero_right c, scale_hundred c, scale_zero_left p⟩,
    fun _ _ _ _ => scale_mono, by decide⟩

/-! Pack (R112). -/

/-- Channels of 8 bits share no bit of the packed word, so its fields add up. -/
theorem channels_or_eq_add {r g b : Nat} (hr : r ≤ 255) (hb : b ≤ 255) :
    (g <<< 16) ||| (r <<< 8) ||| b = g * 2 ^ 16 + r * 2 ^ 8 + b := by
  rw [Nat.or_assoc, ← Nat.shiftLeft_add_eq_or_of_lt (by omega : b < 2 ^ 8),
    ← Nat.shiftLeft_add_eq_or_of_lt (by omega : r <<< 8 + b < 2 ^ 16)]
  omega

theorem pack_eq_ofNat {r g b : Nat} (hr : r ≤ 255) (hb : b ≤ 255) :
    pack r g b = BitVec.ofNat 24 (g * 2 ^ 16 + r * 2 ^ 8 + b) := by
  rw [pack, channels_or_eq_add hr hb]

theorem toNat_pack {r g b : Nat} (hr : r ≤ 255) (hg : g ≤ 255) (hb : b ≤ 255) :
    (pack r g b).toNat = g * 2 ^ 16 + r * 2 ^ 8 + b := by
  rw [pack_eq_ofNat hr hb, BitVec.toNat_ofNat]
  omega

/-- Settles O14: the packed word and the concatenation are the same number. -/
theorem packLayout : Obligations.PackLayout := by
  intro r g b hr hg hb
  refine ⟨BitVec.eq_of_toNat_eq ?_, toNat_pack hr hg hb⟩
  rw [toNat_pack hr hg hb, toNat_append_eq_add, toNat_append_eq_add]
  simp only [BitVec.toNat_ofNat]
  omega

/-- The packed word of a legal brightness, as the sum of its scaled channels at their places. -/
theorem packedWord_eq_ofNat {bright : Byte} (red green blue : Byte) (hp : bright.toNat ≤ 100) :
    packedWord bright red green blue = BitVec.ofNat 24 (green.toNat * bright.toNat / 100 * 2 ^ 16 +
      red.toNat * bright.toNat / 100 * 2 ^ 8 + blue.toNat * bright.toNat / 100) :=
  pack_eq_ofNat (scale_toNat_le red hp) (scale_toNat_le blue hp)

/-- At brightness 0 no bit is set, whatever the colour (R118). -/
theorem packedWord_zero_bright (red green blue : Byte) : packedWord 0 red green blue = 0 := by
  simp [packedWord, pack]

/-- Full white at brightness 100 sets all 24 bits (R118). -/
theorem packedWord_full_white : packedWord 100 255 255 255 = BitVec.allOnes 24 := by decide

/-! Code and Dec (R113, R114, R122). -/

theorem slotCode_zero (b : Build) (j : Nat) : slotCode b 0 j = b.code0.setWidth 32 := by
  simp [slotCode, code]

theorem slotCode_allOnes (b : Build) (j : Nat) : slotCode b (BitVec.allOnes 24) j = b.code1.setWidth 32 := by
  rw [slotCode, BitVec.getLsbD_allOnes, decide_eq_true (by omega), code, if_pos rfl]

/-- Dec undoes Code in a build whose two codes differ. -/
theorem decodeSlot_code {b : Build} (hne : b.code0 ≠ b.code1) (x : Bool) : decodeSlot b (code b x) = x := by
  cases x with
  | true => simp [decodeSlot, code]
  | false =>
    have hwide : b.code0.setWidth 32 ≠ b.code1.setWidth 32 := fun h => hne (by
      simpa only [compareBits_setWidth] using congrArg compareBits h)
    simpa [decodeSlot, code] using hwide

/-- A pixel whose 24 slots hold the codes of a word reads back as that word. -/
theorem pixelWord_eq_of_slots {s : State} {i : Nat} {w : BitVec 24} (hne : s.build.code0 ≠ s.build.code1)
    (h : ∀ j, j < 24 → readElem s (24 * i + j) = slotCode s.build w j) : pixelWord s i = w := by
  refine BitVec.eq_of_getLsbD_eq fun k hk => ?_
  rw [pixelWord, BitVec.getLsbD_ofFnBE, dif_pos hk, h _ (Fin.isLt _), slotCode, decodeSlot_code hne]
  congr 1
  simp only [Fin.val_rev]
  omega

end Sys2Proof.Machine
end

section
/-! SUPPORT. What SET_PIXEL and ENCODE_RESET leave in the frame buffer, element by element and byte by byte (R117 to R124). -/

namespace Sys2Proof.Machine

/-! The bytes of an element (R56). -/

/-- A byte of the frame buffer is a byte of the element it lies in. -/
theorem readByte_eq_byteOf_readElem (s : State) (k : Nat) {j : Nat} (hj : j < 4) :
    readByte s (slotAddr s.build k + j) = byteOf (readElem s k) j := by
  unfold readElem memRead32 byteOf
  match j, hj with
  | 0, _ => exact BitVec.extractLsb'_append_eq_right.symm
  | 1, _ =>
    rw [BitVec.extractLsb'_append_eq_of_le (by decide)]
    exact BitVec.extractLsb'_append_eq_right.symm
  | 2, _ =>
    iterate 2 rw [BitVec.extractLsb'_append_eq_of_le (by decide)]
    exact BitVec.extractLsb'_append_eq_right.symm
  | 3, _ =>
    iterate 3 rw [BitVec.extractLsb'_append_eq_of_le (by decide)]
    exact BitVec.extractLsb'_eq_self.symm

/-- Two states of one build that agree on the elements of a range agree on its bytes. -/
theorem readByte_eq_of_readElem_eq {s t : State} (hb : t.build = s.build) {lo hi a : Nat}
    (h : ∀ k, lo ≤ k → k < hi → readElem t k = readElem s k)
    (ha : slotAddr s.build lo ≤ a ∧ a < slotAddr s.build hi) : readByte t a = readByte s a := by
  simp only [slotAddr] at ha
  obtain ⟨k, j, hlo, hhi, hj, rfl⟩ : ∃ k j, lo ≤ k ∧ k < hi ∧ j < 4 ∧ slotAddr s.build k + j = a :=
    ⟨(a - s.build.fbBase) / 4, (a - s.build.fbBase) % 4, by omega, by omega, by omega, by simp only [slotAddr]; omega⟩
  have ht := readByte_eq_byteOf_readElem t k hj
  rw [hb] at ht
  rw [ht, readByte_eq_byteOf_readElem s k hj, h k hlo hhi]

/-! What SET_PIXEL answers (R116, R117). -/

theorem exec_setPixel_of_idle {index : BitVec 16} {bright : Byte} {s : State} (hi : index.toNat < s.build.n)
    (hp : bright.toNat ≤ 100) (hb : s.busy = false) (red green blue : Byte) :
    exec (.setPixel index bright red green blue) s =
      .next (respond .ok (writePixel index.toNat (packedWord bright red green blue) s)) := by
  rw [exec, execSetPixel_eq, if_neg (by omega), if_neg (by simp [hb])]

theorem exec_setPixel_rejected {index : BitVec 16} {bright : Byte} {s : State}
    (h : s.build.n ≤ index.toNat ∨ 100 < bright.toNat ∨ s.busy = true) (red green blue : Byte) :
    ∃ st, exec (.setPixel index bright red green blue) s = .next (respond st s) := by
  rw [exec, execSetPixel_eq]
  by_cases hop : s.build.n ≤ index.toNat ∨ 100 < bright.toNat
  · exact ⟨_, by rw [if_pos hop]⟩
  · have hbusy : s.busy = true := (or_assoc.mpr h).resolve_left hop
    exact ⟨_, by rw [if_neg hop, if_pos hbusy]⟩

/-! The slots of a written pixel (R114, R118, R122, R124). -/

/-- Settles O17: the slots are the codes of the packed word's bits, most significant first. -/
theorem setPixelWritesPackedBits : Obligations.SetPixelWritesPackedBits := by
  intro index bright red green blue s hi hp hb
  refine ⟨_, exec_setPixel_of_idle hi hp hb red green blue, ?_, fun j hj => ?_⟩
  · simp [hb]
  · rw [readElem_respond, readElem_writePixel _ _ _ hj, packedWord_eq_ofNat red green blue hp]
    rfl

/-- Settles O19: Dec reads each slot's code back as the bit it was written from. -/
theorem pixelDecodesToScaledColour : Obligations.PixelDecodesToScaledColour := by
  intro index bright red green blue s hne hi hp hb
  have hslot : ∀ j, j < 24 → readElem (respond .ok (writePixel index.toNat (packedWord bright red green blue) s))
      (24 * index.toNat + j) = slotCode s.build (packedWord bright red green blue) j :=
    fun j hj => by rw [readElem_respond, readElem_writePixel _ _ _ hj]
  refine ⟨_, exec_setPixel_of_idle hi hp hb red green blue, ?_, fun j hj => ?_⟩
  · refine pixelWord_eq_of_slots (by rwa [respond_build, writePixel_build]) fun j hj => ?_
    rw [hslot j hj, respond_build, writePixel_build]
    rfl
  · rw [hslot j hj]
    exact (slotCode_eq s.build _ j).symm

/-- Settles O22: the packed words are all zeros and all ones, and the last pixel's slot 23 is the region's last. -/
theorem setPixelCorners : Obligations.SetPixelCorners := by
  intro i r g b s hb hi
  have hwhite : ∀ j, j < 24 → readElem (respond .ok (writePixel i.toNat (packedWord 100 255 255 255) s))
      (24 * i.toNat + j) = s.build.code1.setWidth 32 := fun j hj => by
    rw [readElem_respond, readElem_writePixel _ _ _ hj, packedWord_full_white, slotCode_allOnes]
  refine ⟨⟨_, exec_setPixel_of_idle hi (by decide) hb r g b, fun j hj => ?_⟩,
    _, exec_setPixel_of_idle hi (by decide) hb 255 255 255, hwhite, fun hlast => ?_⟩
  · rw [readElem_respond, readElem_writePixel _ _ _ hj, packedWord_zero_bright, slotCode_zero]
  · have hslot : s.build.pixelSlots - 1 = 24 * i.toNat + 23 := by simp only [Build.pixelSlots]; omega
    rw [hslot]
    exact hwhite 23 (by decide)

/-- Settles O21: the operands reach the state through the packed word alone. -/
theorem sameScaledColourSameSlots : Obligations.SameScaledColourSameSlots := by
  intro i p r g b p' r' g' b' s hb hi hp hp' hr hg hbl
  have hword : packedWord p r g b = packedWord p' r' g' b' := by simp only [packedWord, hr, hg, hbl]
  refine ⟨_, exec_setPixel_of_idle hi hp hb r g b, ?_⟩
  rw [hword]
  exact exec_setPixel_of_idle hi hp' hb r' g' b'

/-! The bytes around a written pixel (R119, R123). -/

/-- A response to a state with another memory changes the memory and the response alone. -/
theorem respond_eq_of_mem {s t : State} (st : Status) (h : t = { s with mem := t.mem }) :
    respond st t = { s with mem := (respond st t).mem, resp := (respond st t).resp
                            responses := s.responses ++ [(respond st t).resp] } := by
  generalize t.mem = m at h
  subst h
  rfl

/-- Settles O18: an accepted command writes its pixel and responds, a rejected one responds alone. -/
theorem setPixelFrame : Obligations.SetPixelFrame := by
  intro index bright red green blue s
  by_cases hrej : s.build.n ≤ index.toNat ∨ 100 < bright.toNat ∨ s.busy = true
  · obtain ⟨st, hst⟩ := exec_setPixel_rejected hrej red green blue
    exact ⟨_, hst, rfl, fun _ _ => rfl, fun _ => rfl, fun _ _ => rfl⟩
  · obtain ⟨hi, hp, hb⟩ : index.toNat < s.build.n ∧ bright.toNat ≤ 100 ∧ s.busy = false := by simpa using hrej
    refine ⟨_, exec_setPixel_of_idle hi hp hb red green blue, respond_eq_of_mem _ (writePixel_eq ..),
      fun a ha => ?_, fun h => absurd h hrej, fun k hk => ?_⟩
    · rw [readByte_respond, readByte_writePixel_other _ _ _ ha]
    · rw [readElem_respond, readElem_writePixel_other _ _ _ (by simp only [Build.pixelSlots] at hk; omega)]

/-- The byte lies in the 24 slots of a pixel (R119). -/
def InPixel (b : Build) (i a : Nat) : Prop := slotAddr b (24 * i) ≤ a ∧ a < slotAddr b (24 * i) + 96

theorem InPixel.index_eq {b : Build} {i j a : Nat} (hi : InPixel b i a) (hj : InPixel b j a) : i = j := by
  simp only [InPixel, slotAddr] at hi hj
  omega

/-- A byte after a pixel is written depends on the build and, outside the pixel, on the same byte before. -/
theorem readByte_writePixel_congr {s t : State} (hb : t.build = s.build) (i : Nat) (w : BitVec 24) {a : Nat}
    (h : ¬ InPixel s.build i a → readByte t a = readByte s a) :
    readByte (writePixel i w t) a = readByte (writePixel i w s) a := by
  by_cases ha : InPixel s.build i a
  · refine readByte_eq_of_readElem_eq (lo := 24 * i) (hi := 24 * i + 24) (by simpa using hb) (fun k hlo hhi => ?_)
      (by simp only [InPixel, slotAddr, writePixel_build] at ha ⊢; omega)
    obtain ⟨j, rfl⟩ := Nat.exists_eq_add_of_le hlo
    rw [readElem_writePixel i w t (by omega), readElem_writePixel i w s (by omega), hb]
  · rw [readByte_writePixel_other i w t (by rw [hb]; exact ha), readByte_writePixel_other i w s ha, h ha]

theorem readByte_writePixel_repeat (i : Nat) (w : BitVec 24) (s : State) (a : Nat) :
    readByte (writePixel i w (writePixel i w s)) a = readByte (writePixel i w s) a :=
  readByte_writePixel_congr (writePixel_build i w s) i w (readByte_writePixel_other i w s)

theorem readByte_writePixel_comm {i j : Nat} (hij : i ≠ j) (w w' : BitVec 24) (s : State) (a : Nat) :
    readByte (writePixel j w' (writePixel i w s)) a = readByte (writePixel i w (writePixel j w' s)) a := by
  by_cases hj : InPixel s.build j a
  · have hi : ¬ InPixel s.build i a := fun hi => hij (hi.index_eq hj)
    calc readByte (writePixel j w' (writePixel i w s)) a
        = readByte (writePixel j w' s) a := readByte_writePixel_congr (writePixel_build i w s) j w' (absurd hj)
      _ = readByte (writePixel i w (writePixel j w' s)) a :=
        (readByte_writePixel_other i w _ (by rw [writePixel_build]; exact hi)).symm
  · calc readByte (writePixel j w' (writePixel i w s)) a
        = readByte (writePixel i w s) a := readByte_writePixel_other j w' _ (by rw [writePixel_build]; exact hj)
      _ = readByte (writePixel i w (writePixel j w' s)) a :=
        (readByte_writePixel_congr (writePixel_build j w' s) i w fun _ => readByte_writePixel_other j w' s hj).symm

/-- A pixel is written from its word and the build alone, whatever the state before. -/
theorem readElem_writePixel_congr {s t : State} (hb : t.build = s.build) (i : Nat) (w : BitVec 24) {k : Nat}
    (hk : k < 24) : readElem (writePixel i w t) (24 * i + k) = readElem (writePixel i w s) (24 * i + k) := by
  rw [readElem_writePixel i w t hk, readElem_writePixel i w s hk, hb]

/-- A pixel written after a response is the pixel written in the state before it, as far as the bytes show. -/
theorem readByte_writePixel_respond (i : Nat) (w : BitVec 24) (st : Status) (s : State) (a : Nat) :
    readByte (writePixel i w (respond st s)) a = readByte (writePixel i w s) a :=
  readByte_writePixel_congr (respond_build st s) i w fun _ => readByte_respond st s a

/-- Settles O20: the bytes of two written pixels, repeated, on one index, and on two. -/
theorem setPixelRepeatOverwriteCommute : Obligations.SetPixelRepeatOverwriteCommute := by
  intro i j p r g b p' r' g' b' s hb hi hj hp hp'
  refine ⟨_, _, _, _, _, exec_setPixel_of_idle hi hp hb r g b,
    exec_setPixel_of_idle (by simpa using hi) hp (by simpa using hb) r g b,
    exec_setPixel_of_idle (by simpa using hj) hp' (by simpa using hb) r' g' b',
    exec_setPixel_of_idle hj hp' hb r' g' b',
    exec_setPixel_of_idle (by simpa using hi) hp (by simpa using hb) r g b, fun a => ?_, fun k hk => ?_, fun hij a => ?_⟩
  · rw [readByte_respond, readByte_writePixel_respond, readByte_writePixel_repeat, readByte_respond]
  · rw [readElem_respond, readElem_respond]
    exact readElem_writePixel_congr (by rw [respond_build, writePixel_build]) j.toNat _ hk
  · have hne : i.toNat ≠ j.toNat := fun h => hij (BitVec.eq_of_toNat_eq h)
    rw [readByte_respond, readByte_writePixel_respond, readByte_respond, readByte_writePixel_respond,
      readByte_writePixel_comm hne]

/-! ENCODE_RESET (R120, R121). -/

@[simp] theorem encodeReset_build (s : State) : (encodeReset s).build = s.build := fillElems_build ..

/-- The range ENCODE_RESET fills ends at the frame's last element. -/
theorem pixelSlots_add_reset (b : Build) : b.pixelSlots + (b.frameLen - b.pixelSlots) = b.frameLen := by
  simp only [Build.pixelSlots, Build.frameLen]
  omega

theorem readElem_encodeReset (s : State) {k : Nat} (h : s.build.pixelSlots ≤ k ∧ k < s.build.frameLen) :
    readElem (encodeReset s) k = Config.resetCode.setWidth 32 :=
  readElem_fillElems _ _ _ _ (by rwa [pixelSlots_add_reset])

theorem readByte_encodeReset_other (s : State) {a : Nat}
    (h : ¬ (slotAddr s.build s.build.pixelSlots ≤ a ∧ a < slotAddr s.build s.build.frameLen)) :
    readByte (encodeReset s) a = readByte s a :=
  readByte_fillElems_other _ _ _ _ (by rwa [pixelSlots_add_reset])

/-- Settles O23: ENCODE_RESET is a fill of the reset region. -/
theorem encodeResetFillsRegion : Obligations.EncodeResetFillsRegion :=
  fun s => ⟨fun _ hlo hhi => readElem_encodeReset s ⟨hlo, hhi⟩,
    fun _ hk => readElem_fillElems_other _ _ _ _ (by omega),
    fun _ => readByte_encodeReset_other s,
    fillElems_eq ..⟩

/-- Settles O24: every byte reads as before, and two canonical memories that read alike are equal (log 8). -/
theorem encodeResetIdempotent : Obligations.EncodeResetIdempotent := by
  intro s hwf hreset
  have hread : ∀ a, readByte (encodeReset s) a = readByte s a := fun a => by
    by_cases ha : slotAddr s.build s.build.pixelSlots ≤ a ∧ a < slotAddr s.build s.build.frameLen
    · refine readByte_eq_of_readElem_eq (encodeReset_build s) (fun k hlo hhi => ?_) ha
      rw [readElem_encodeReset s ⟨hlo, hhi⟩, hreset k hlo hhi]
    · exact readByte_encodeReset_other s ha
  have hmem : (encodeReset s).mem = s.mem :=
    mem_ext (wf_encodeReset hwf) hwf fun a => by simpa [readByte] using hread a
  rw [encodeReset, fillElems_eq]
  exact congrArg (fun m => { s with mem := m }) hmem

end Sys2Proof.Machine
end

section
/-! SUPPORT. The transmit controller: what its commands and the hardware's steps leave, and its transitions (R140 to R151). -/

namespace Sys2Proof.Machine

/-! SUBMIT_FRAME and QUERY_BUSY. -/

/-- A controller that is not busy arms the frame (R140). -/
theorem exec_submitFrame_of_not_busy {s : State} (hb : s.busy = false) :
    exec .submitFrame s = .next (respond .ok (armFrame s)) := by
  rw [exec, execSubmitFrame_eq, hb]
  rfl

/-- A busy controller does not re-arm (R142). -/
theorem exec_submitFrame_of_busy {s : State} (hb : s.busy = true) :
    exec .submitFrame s = .next (respond .deviceBusy s) := by
  rw [exec, execSubmitFrame_eq, if_pos hb]

/-- Settles O25: an accepted command arms the frame and responds, a refused one responds alone. -/
theorem submitFrameArms : Obligations.SubmitFrameArms := by
  refine fun s => ⟨exec_submitFrame_of_not_busy, fun hb => ?_, toNat_frameLen_of_valid⟩
  rw [exec_submitFrame_of_busy hb, respond, hb]

/-- Settles O26: the command responds alone, and the response shows the two flags and status OK. -/
theorem queryBusyReports : Obligations.QueryBusyReports := by
  intro s
  obtain ⟨hbusy, hfault⟩ := respWord_getLsbD_flags .ok s.busy s.fault
  exact ⟨execQueryBusy_eq s, hbusy, hfault, respWord_extractLsb'_status ..⟩

/-- A busy controller answers DEVICE_BUSY to a SET_PIXEL whose operands are in range (R183). -/
theorem exec_setPixel_of_busy {index : BitVec 16} {bright : Byte} {s : State} (hi : index.toNat < s.build.n)
    (hp : bright.toNat ≤ 100) (hb : s.busy = true) (red green blue : Byte) :
    exec (.setPixel index bright red green blue) s = .next (respond .deviceBusy s) := by
  rw [exec, execSetPixel_eq, if_neg (by omega), if_pos hb]

/-- Every word issued to a busy controller leaves a response alone (R45, R142, R183). -/
theorem issue_of_busy {s : State} (hb : s.busy = true) (w : Command) : ∃ st, issue w s = .next (respond st s) := by
  obtain ⟨t, ht⟩ := issue_next w s
  rcases issue_cases ht with ⟨st, rfl⟩ | ⟨hidle, -⟩ | ⟨hidle, -⟩
  · exact ⟨st, ht⟩
  · simp [hb] at hidle
  · simp [hb] at hidle

/-! UPDATE. -/

/-- UPDATE moves an element that exists (R146). -/
theorem takeEvent_update_of_lt {s : State} (he : updateEnabled s = true) (hp : s.dmaPtr.toNat < s.build.frameLen) :
    takeEvent .update s = .next (transferElement s) :=
  (takeEvent_update he).trans (if_pos hp)

/-- While transferring, UPDATE is enabled (R46). -/
theorem updateEnabled_of_isTransferring {s : State} (h : s.isTransferring = true) : updateEnabled s = true := by
  obtain ⟨-, -, -, hdma, htmr, -, hcnt⟩ := isTransferring_iff.mp h
  exact updateEnabled_iff.mpr ⟨htmr, hdma, hcnt⟩

/-- The compare register takes bits 15:0 (R55). -/
theorem compareBits_eq_extractLsb' (v : Word) : compareBits v = v.extractLsb' 0 16 :=
  BitVec.setWidth_eq_extractLsb' (by decide)

/-- The count reaches 0 exactly from 1. -/
theorem dmaCnt_sub_one_eq_zero_iff {s : State} : s.dmaCnt - 1 = 0 ↔ s.dmaCnt = 1 := by
  constructor
  · intro h
    bv_omega
  · intro h
    rw [h]
    rfl

/-- UPDATE's next state, with its end-of-transfer writes as the rule's condition on the count before it (R146). -/
theorem transferElement_eq {s : State} (hdma : s.dmaEn = true) :
    transferElement s = { s with
      ccr := (readElem s s.dmaPtr.toNat).extractLsb' 0 16
      wave := s.wave ++ [.value ((readElem s s.dmaPtr.toNat).extractLsb' 0 16)]
      dmaPtr := s.dmaPtr + 1
      dmaCnt := s.dmaCnt - 1
      dmaEn := decide (s.dmaCnt ≠ 1)
      tcPending := s.tcPending || decide (s.dmaCnt = 1) } := by
  simp only [transferElement, compareBits_eq_extractLsb', dmaCnt_sub_one_eq_zero_iff]
  simp [hdma, Bool.or_comm]

/-- Settles O27: of the phases only the transfer has the channel enabled, and UPDATE is `transferElement`. -/
theorem updateMovesOneElement : Obligations.UpdateMovesOneElement := by
  intro s
  refine ⟨updateEnabled_iff, fun hphase => ⟨fun he => ?_, updateEnabled_of_isTransferring⟩,
    fun htmr hdma hcnt hptr => ?_⟩
  · obtain ⟨-, hdma, -⟩ := updateEnabled_iff.mp he
    exact isTransferring_of_phaseInv hphase hdma
  · rw [takeEvent_update_of_lt (updateEnabled_iff.mpr ⟨htmr, hdma, hcnt⟩) hptr, transferElement_eq hdma]

/-! IDLE_PERIOD and COMPLETE. -/

theorem idlePeriodEnabled_iff {s : State} : idlePeriodEnabled s = true ↔ s.tmrEn = true ∧ s.dmaEn = false := by
  simp [idlePeriodEnabled]

/-- An enabled IDLE_PERIOD is the step of R149. -/
theorem takeEvent_idlePeriod {s : State} (h : idlePeriodEnabled s = true) :
    takeEvent .idlePeriod s = .next (idlePeriod s) :=
  if_pos h

theorem idlePeriodEnabled_of_isCompletionPending {s : State} (h : s.isCompletionPending = true) :
    idlePeriodEnabled s = true := by
  obtain ⟨-, -, -, hdma, htmr, -⟩ := isCompletionPending_iff.mp h
  exact idlePeriodEnabled_iff.mpr ⟨htmr, hdma⟩

/-- Of the phases only completion pending has the timer running and the channel stopped (R46). -/
theorem isCompletionPending_of_idlePeriodEnabled {s : State} (h : s.phaseInv = true)
    (he : idlePeriodEnabled s = true) : s.isCompletionPending = true := by
  obtain ⟨htmr, hdma⟩ := idlePeriodEnabled_iff.mp he
  rcases phaseInv_iff.mp h with h | h | h | h
  · simp [htmr, isIdle_iff] at h
  · simp [hdma, isTransferring_iff] at h
  · exact h
  · simp [htmr, isFaulted_iff] at h

/-- Settles O29: completion pending is the phase it is enabled in, and the step is `idlePeriod`. -/
theorem idlePeriodRepeats : Obligations.IdlePeriodRepeats :=
  fun _ => ⟨idlePeriodEnabled_iff,
    fun hphase => ⟨isCompletionPending_of_idlePeriodEnabled hphase, idlePeriodEnabled_of_isCompletionPending⟩,
    fun htmr hdma => takeEvent_idlePeriod (idlePeriodEnabled_iff.mpr ⟨htmr, hdma⟩)⟩

/-- Settles O30: TC_PENDING is the enabling condition, and the step is `completeFrame`. -/
theorem completeEndsFrame : Obligations.CompleteEndsFrame :=
  fun _ => ⟨Iff.rfl, takeEvent_complete⟩

/-! The transitions (R144). -/

/-- A DMA_ERROR of an enabled channel is taken (R186). -/
theorem takeEvent_dmaError {s : State} (h : s.dmaEn = true) : takeEvent .dmaError s = .next (dmaError s) :=
  if_pos h

theorem SameBlock.isIdle_eq {s t : State} (h : SameBlock s t) : t.isIdle = s.isIdle := by
  obtain ⟨_, _, _, _, _, _, rfl⟩ := h
  rfl

theorem isIdle_writePixel (i : Nat) (w : BitVec 24) (s : State) : (writePixel i w s).isIdle = s.isIdle := by
  simp [State.isIdle]

/-- An idle controller leaves Idle by SUBMIT_FRAME alone (R144). -/
theorem isIdle_of_issue {s t : State} {w : Command} (hs : s.isIdle = true) (h : issue w s = .next t)
    (hw : decode w ≠ .command .submitFrame) : t.isIdle = true := by
  rcases issue_effect h with ht | ⟨-, hsubmit, -⟩ | ⟨-, i, c, -, ht⟩
  · rwa [ht.isIdle_eq]
  · exact absurd hsubmit hw
  · rwa [ht.isIdle_eq, isIdle_writePixel]

/-- An UPDATE stays in the transfer while elements are left, and ends it with the last one (R144). -/
theorem phase_transferElement_of_dmaCnt {s : State} (hM : s.build.frameLen ≤ 65535) (h : s.isTransferring = true) :
    if 1 < s.dmaCnt.toNat then (transferElement s).isTransferring = true
    else (transferElement s).isCompletionPending = true := by
  have hptr := dmaPtr_lt_of_isTransferring h
  obtain ⟨-, -, -, -, -, -, hcnt⟩ := isTransferring_iff.mp h
  obtain ⟨-, hcnt'⟩ := toNat_transferElement (s := s) (by omega) hcnt
  rcases phase_transferElement hM h with ht | ht
  · obtain ⟨-, -, -, -, -, -, hleft⟩ := isTransferring_iff.mp ht
    rwa [if_pos (by omega)]
  · obtain ⟨-, -, -, -, -, -, hnone⟩ := isCompletionPending_iff.mp ht
    have hnone : (transferElement s).dmaCnt.toNat = 0 := congrArg BitVec.toNat hnone
    rwa [if_neg (by omega)]

theorem respond_status (st : Status) (s : State) : (respond st s).resp.extractLsb' 0 2 = st.bits :=
  respWord_extractLsb'_status ..

/-- Settles O34, row by row of the table: each step leads to its phase, a busy controller's commands respond alone, and
only RESET leaves a faulted controller. -/
theorem controllerTransitions : Obligations.ControllerTransitions := by
  intro s hv
  have hM := frameLen_le_of_valid hv
  refine ⟨fun hs => ?_, fun hs w hw => ?_, fun hs => ?_, fun hs => ?_, fun hs => ?_, fun hs => ?_, fun _ hb w => ?_,
    ⟨_, takeEvent_reset s, isIdle_resetStep s⟩, fun hs e t hne h => (takeEvent_effect h).isFaulted hne hs⟩
  · exact ⟨_, exec_submitFrame_of_not_busy (isIdle_iff.mp hs).1, isTransferring_armFrame (s := s) hv hs⟩
  · obtain ⟨t, ht⟩ := issue_next w s
    exact ⟨t, ht, isIdle_of_issue hs ht hw⟩
  · exact ⟨_, takeEvent_update_of_lt (updateEnabled_of_isTransferring hs) (dmaPtr_lt_of_isTransferring hs),
      phase_transferElement_of_dmaCnt hM hs⟩
  · exact ⟨_, takeEvent_idlePeriod (idlePeriodEnabled_of_isCompletionPending hs), hs⟩
  · obtain ⟨-, -, htc, -⟩ := isCompletionPending_iff.mp hs
    exact ⟨_, takeEvent_complete htc, isIdle_completeFrame hs⟩
  · obtain ⟨-, -, -, hdma, -⟩ := isTransferring_iff.mp hs
    exact ⟨_, takeEvent_dmaError hdma, isFaulted_dmaError hs⟩
  · obtain ⟨st, ht⟩ := issue_of_busy hb w
    refine ⟨_, ht, rfl, rfl, rfl, fun hd => ?_, fun index bright red green blue hd hi hp => ?_⟩
    · rw [issue_command hd, exec_submitFrame_of_busy hb, Host.Outcome.next.injEq] at ht
      exact ht ▸ respond_status .deviceBusy s
    · rw [issue_command hd, exec_setPixel_of_busy hi hp hb, Host.Outcome.next.injEq] at ht
      exact ht ▸ respond_status .deviceBusy s

/-! The frame emission law (R156). -/

/-- Settles O45: where the completion is pending the whole frame is out with copies of its last value, and COMPLETE adds
nothing. -/
theorem frameEmission : Obligations.FrameEmission := by
  intro s t u v es hv hi ht hu hes hpend hcomplete
  have hflight := ((FrameInFlight.armFrame hv hi).sameBlock (submitFrame_of_idle hi ht)).runEvents hv hu hes
  rw [takeEvent_complete hpend, Host.Outcome.next.injEq] at hcomplete
  subst hcomplete
  exact ⟨isIdle_completeFrame (isCompletionPending_of_phaseInv hflight.phaseInv hpend),
    by rw [completeFrame_wave]; exact hflight.wave_of_tcPending hv hpend,
    fun hfb => ⟨lastValue_eq_zero hv hfb, frameValues_eq_take_append hfb⟩⟩

end Sys2Proof.Machine
end

section
/-! SUPPORT. The pin, and the ticks of one period (R145, R148, R154, R157, R158). -/

namespace Sys2Proof.Machine

/-! The pin. -/

/-- Of the first `n` numbers, those below `m` are `min m n`. -/
theorem countP_range_lt (m n : Nat) : (List.range n).countP (fun t => decide (t < m)) = min m n := by
  induction n with
  | zero => simp
  | succ n ih =>
    rw [List.range_succ, List.countP_append, ih, List.countP_singleton]
    by_cases hlt : n < m
    · rw [if_pos (decide_eq_true hlt)]
      omega
    · rw [if_neg (by simpa using hlt)]
      omega

theorem pin_of_stopped {s : State} (h : s.tmrEn = false) : s.pin = false := by
  simp [State.pin, h]

/-- Settles O57: the high ticks of a period are those below `min v PERIOD_TICKS`, and RESET, COMPLETE and DMA_ERROR stop
the timer. -/
theorem pinHighTime : Obligations.PinHighTime := by
  refine ⟨fun b v => ?_, fun b v x y hxy hy => ?_, fun s => pin_of_stopped, fun s t h => ?_, fun s t hs h => ?_,
    fun s t hs h => ?_⟩
  · exact (countP_range_lt _ _).trans (by rw [min_assoc, min_self])
  · simp only [pinAtTick, decide_eq_true_eq] at hy ⊢
    omega
  · rw [takeEvent_reset, Host.Outcome.next.injEq] at h
    exact pin_of_stopped (h ▸ resetStep_tmrEn s)
  · rw [takeEvent_complete hs, Host.Outcome.next.injEq] at h
    exact pin_of_stopped (h ▸ completeFrame_tmrEn s)
  · rw [takeEvent_dmaError hs, Host.Outcome.next.injEq] at h
    exact pin_of_stopped (h ▸ dmaError_tmrEn s)

/-! One period, tick by tick. -/

theorem periodTicks_le_of_valid {b : Build} (hv : b.valid = true) : b.periodTicks ≤ 65536 := by
  simp [Build.valid, Build.parametersOk] at hv
  omega

/-- TMR_CNT holds every tick of a period (R31). -/
theorem toNat_tick {b : Build} (hv : b.valid = true) {x : Nat} (hx : x < b.periodTicks) :
    (BitVec.ofNat 16 x).toNat = x := by
  have := periodTicks_le_of_valid hv
  rw [BitVec.toNat_ofNat]
  omega

section
variable {s : State} (hv : s.build.valid = true) (htmr : s.tmrEn = true) (hzero : s.tmrCnt = 0)
  (hdue : startEventDue s = false)
include hv htmr

/-- At tick `x` of a period whose compare value is in CCR, the pin is what R157 says. -/
theorem pin_tick {x : Nat} (hx : x < s.build.periodTicks) :
    State.pin { s with tmrCnt := BitVec.ofNat 16 x } = pinAtTick s.build s.ccr x := by
  simp only [State.pin, pinAtTick, htmr, toNat_tick hv hx, Bool.true_and, decide_eq_decide]
  omega

include hzero hdue

/-- Before the period ends, ticks count TMR_CNT and do nothing else (R154). -/
theorem timerTicks_within_period {x : Nat} (hx : x < s.build.periodTicks) :
    timerTicks x s = .next { s with tmrCnt := BitVec.ofNat 16 x } := by
  induction x with
  | zero =>
    rw [timerTicks, takeStartEvent_of_not_due hdue]
    exact congrArg Host.Outcome.next (congrArg (fun c => { s with tmrCnt := c }) hzero)
  | succ x ih =>
    have hx' : x < s.build.periodTicks := by omega
    rw [timerTicks_succ (ih hx'), countTick, if_pos htmr, if_pos (by rwa [toNat_tick hv hx'])]
    simp [BitVec.ofNat_add]

/-- The last tick of the period wraps TMR_CNT to 0 with the timer's event (R145, R154). -/
theorem timerTicks_period : timerTicks s.build.periodTicks s = timerEvent s := by
  obtain ⟨x, hx⟩ := Nat.exists_eq_add_of_lt (periodTicks_pos_of_valid hv)
  rw [Nat.zero_add] at hx
  have hlt : x < s.build.periodTicks := by omega
  have hlast : ¬ (BitVec.ofNat 16 x).toNat + 1 < s.build.periodTicks := by rw [toNat_tick hv hlt]; omega
  rw [hx, timerTicks_succ (timerTicks_within_period hv htmr hzero hdue hlt), countTick, if_pos htmr, if_neg hlast]
  exact congrArg timerEvent (congrArg (fun c => { s with tmrCnt := c }) hzero.symm)

end

/-- The period whose start event leaves `u`: its ticks, the pin at each, and the event it ends with (R145, R148, R157). -/
theorem period_after_startEvent {s u : State} (hstart : takeStartEvent s = .next u) (hdue : startEventDue u = false)
    (hv : u.build.valid = true) (htmr : u.tmrEn = true) (hzero : u.tmrCnt = 0) :
    (∀ x, x < u.build.periodTicks → ∃ q, timerTicks x s = .next q ∧ q = { u with tmrCnt := BitVec.ofNat 16 x } ∧
      q.pin = pinAtTick u.build u.ccr x) ∧
    timerTicks u.build.periodTicks s = timerEvent u := by
  refine ⟨fun x hx => ?_, ?_⟩
  · rw [timerTicks_of_takeStartEvent hstart hdue]
    exact ⟨_, timerTicks_within_period hv htmr hzero hdue hx, rfl, pin_tick hv htmr hx⟩
  · rw [timerTicks_of_takeStartEvent hstart hdue, timerTicks_period hv htmr hzero hdue]

/-- The timer's event is an enabled UPDATE (R145). -/
theorem timerEvent_of_updateEnabled {s : State} (h : updateEnabled s = true) : timerEvent s = takeEvent .update s := by
  rw [timerEvent, if_pos h, takeEvent_update h]

/-- Where the channel is stopped, the timer's event is IDLE_PERIOD (R145). -/
theorem timerEvent_of_idlePeriodEnabled {s : State} (h : idlePeriodEnabled s = true) :
    timerEvent s = takeEvent .idlePeriod s := by
  obtain ⟨-, hdma⟩ := idlePeriodEnabled_iff.mp h
  rw [timerEvent, if_neg (by simp [updateEnabled_iff, hdma]), if_pos h, takeEvent_idlePeriod h]

/-! The first period of a frame (R148). -/

theorem one_lt_frameLen_of_valid {b : Build} (hv : b.valid = true) : 1 < b.frameLen := by
  have := resetSlots_pos_of_valid hv
  simp only [Build.frameLen]
  omega

/-- An accepted SUBMIT_FRAME leaves the timer's start event to come (R148). -/
theorem startEventDue_armFrame (s : State) : startEventDue (respond .ok (armFrame s)) = true := rfl

/-- Where more than one element is left, the channel runs on after an UPDATE (R146). -/
theorem updateEnabled_transferElement {s : State} (he : updateEnabled s = true) (hp : s.dmaPtr.toNat < 65535)
    (hmore : 1 < s.dmaCnt.toNat) : updateEnabled (transferElement s) = true := by
  obtain ⟨htmr, hdma, hcnt⟩ := updateEnabled_iff.mp he
  obtain ⟨-, hcnt'⟩ := toNat_transferElement hp hcnt
  have hne : s.dmaCnt - 1 ≠ 0 := by bv_omega
  exact updateEnabled_iff.mpr ⟨htmr, (if_neg hne).trans hdma, by omega⟩

/-- Settles O58: ticks before the last count alone and the last takes the timer's event; and the start event of an armed
frame is its first UPDATE, after which the first period begins. -/
theorem ticksRefineOnePeriod : Obligations.TicksRefineOnePeriod := by
  refine ⟨fun s hv htmr hzero hdue => ?_, fun s t hv hb ht => ?_⟩
  · obtain ⟨hticks, hend⟩ := period_after_startEvent (takeStartEvent_of_not_due hdue) hdue hv htmr hzero
    refine ⟨hticks, fun hdma hcnt => ?_, fun hdma => ?_⟩
    · exact hend.trans (timerEvent_of_updateEnabled (updateEnabled_iff.mpr ⟨htmr, hdma, by bv_omega⟩))
    · exact hend.trans (timerEvent_of_idlePeriodEnabled (idlePeriodEnabled_iff.mpr ⟨htmr, hdma⟩))
  · rw [exec_submitFrame_of_not_busy hb, Host.Outcome.next.injEq] at ht
    subst ht
    have hM := one_lt_frameLen_of_valid hv
    have hcnt : 1 < (respond .ok (armFrame s)).dmaCnt.toNat := hM.trans_eq (toNat_frameLen_of_valid hv).symm
    have hen : updateEnabled (respond .ok (armFrame s)) = true := updateEnabled_iff.mpr ⟨rfl, rfl, hcnt.le⟩
    have hen' := updateEnabled_transferElement hen (by simp) hcnt
    have hstart := takeStartEvent_of_due (startEventDue_armFrame s) hcnt.le (Nat.zero_lt_of_lt hM)
    have hdue : startEventDue (transferElement (respond .ok (armFrame s))) = false :=
      not_due_transferElement (by simp)
    have hfirst := takeEvent_update_of_lt hen (Nat.zero_lt_of_lt hM)
    have hsecond := takeEvent_update_of_lt hen' hM
    obtain ⟨hticks, hend⟩ := period_after_startEvent hstart hdue hv rfl rfl
    exact ⟨startEventDue_armFrame s, _, _, hfirst, hsecond, compareBits_eq_extractLsb' _, rfl, hdue, hstart, hticks,
      hend.trans ((timerEvent_of_updateEnabled hen').trans hsecond)⟩

end Sys2Proof.Machine
end

section
/-! SUPPORT. The status a command ends with, and what its response leaves of the state (R182 to R185). -/

namespace Sys2Proof.Machine

/-- The status a command ends with, the first that applies in the order of R185. -/
def commandStatus (s : State) : Instr → Status
  | .setPixel index bright _ _ _ =>
    if s.build.n ≤ index.toNat then .invalidParameter
    else if 100 < bright.toNat then .invalidParameter
    else if s.busy then .deviceBusy else .ok
  | .submitFrame => if s.busy then .deviceBusy else .ok
  | .queryBusy => .ok

/-- The status an Issue step ends with: an illegal word's comes before any other (R185). -/
def issueStatus (s : State) (w : Command) : Status :=
  match decode w with
  | .command i => commandStatus s i
  | .illegal _ => .illegalCommand

/-- SET_PIXEL with an operand out of range responds alone, in every state (R182). -/
theorem exec_setPixel_of_invalid {index : BitVec 16} {bright : Byte} {s : State}
    (h : s.build.n ≤ index.toNat ∨ 100 < bright.toNat) (red green blue : Byte) :
    exec (.setPixel index bright red green blue) s = .next (respond .invalidParameter s) := by
  rw [exec, execSetPixel_eq, if_pos h]

/-- A command ends with the response of its status, and has done nothing else unless the status is OK (R184). -/
theorem exec_eq_respond_commandStatus (i : Instr) (s : State) :
    ∃ u, exec i s = .next (respond (commandStatus s i) u) ∧ (commandStatus s i ≠ .ok → u = s) := by
  cases i with
  | setPixel index bright red green blue =>
    simp only [commandStatus]
    split
    · next hi => exact ⟨s, exec_setPixel_of_invalid (.inl hi) .., fun _ => rfl⟩
    · split
      · next hp => exact ⟨s, exec_setPixel_of_invalid (.inr hp) .., fun _ => rfl⟩
      · split
        · next hb => exact ⟨s, exec_setPixel_of_busy (by omega) (by omega) hb .., fun _ => rfl⟩
        · next hb => exact ⟨_, exec_setPixel_of_idle (by omega) (by omega) (by simpa using hb) .., absurd rfl⟩
  | submitFrame =>
    simp only [commandStatus]
    split
    · next hb => exact ⟨s, exec_submitFrame_of_busy hb, fun _ => rfl⟩
    · next hb => exact ⟨_, exec_submitFrame_of_not_busy (by simpa using hb), absurd rfl⟩
  | queryBusy => exact ⟨s, execQueryBusy_eq s, fun _ => rfl⟩

/-- So does an Issue step of any word (R80, R87, R184). -/
theorem issue_eq_respond_issueStatus (w : Command) (s : State) :
    ∃ u, issue w s = .next (respond (issueStatus s w) u) ∧ (issueStatus s w ≠ .ok → u = s) := by
  unfold issueStatus
  cases hd : decode w with
  | command i =>
    rw [issue_command hd]
    exact exec_eq_respond_commandStatus i s
  | illegal why => exact ⟨s, issue_illegal hd s, fun _ => rfl⟩

/-- Settles O11: `issueStatus` is the status reported, and its cases are the order of R185. -/
theorem statusPriority : Obligations.StatusPriority := by
  intro w s
  obtain ⟨u, hu, -⟩ := issue_eq_respond_issueStatus w s
  refine ⟨_, hu, (respond_status ..).trans ?_⟩
  unfold issueStatus
  cases decode w with
  | illegal why => rfl
  | command i =>
    cases i with
    | setPixel index bright red green blue =>
      simp only [commandStatus, apply_ite Status.bits]
      rfl
    | submitFrame =>
      simp only [commandStatus, apply_ite Status.bits]
      rfl
    | queryBusy => rfl

/-- Settles O12: a status that is not OK is the response to a state left as it was. -/
theorem rejectedCommandsChangeOnlyResp : Obligations.RejectedCommandsChangeOnlyResp := by
  intro w s t ht hstatus
  obtain ⟨u, hu, hsame⟩ := issue_eq_respond_issueStatus w s
  rw [takeEvent_issue, hu, Host.Outcome.next.injEq] at ht
  subst ht
  have herror : issueStatus s w ≠ .ok := by
    intro hok
    rw [respond_status, hok] at hstatus
    exact hstatus rfl
  rw [hsame herror]
  rfl

/-- Settles O15: the operands are checked before BUSY is looked at. -/
theorem setPixelInvalidParameter : Obligations.SetPixelInvalidParameter :=
  ⟨rfl, fun _ _ red green blue _ h => exec_setPixel_of_invalid h red green blue⟩

/-- Settles O16: a busy controller responds alone to both commands. -/
theorem deviceBusyWhileBusy : Obligations.DeviceBusyWhileBusy := by
  refine ⟨rfl, fun s hb => ⟨?_, fun index bright red green blue hi hp => ?_⟩⟩
  · rw [exec_submitFrame_of_busy hb, respond, hb]
  · rw [exec_setPixel_of_busy hi hp hb, respond, hb]

end Sys2Proof.Machine
end

section
/-! SUPPORT. The steps that are enabled, phase by phase, and the fault (R186, R187, R192). -/

namespace Sys2Proof.Machine

/-- An event is enabled when it is the host's or RESET, or its agent's condition holds (R146, R149, R151, R186, R192). -/
theorem enabled_iff {e : Event} {s : State} : enabled e s = true ↔
    isHostEvent e = true ∨ (e = .update ∧ updateEnabled s = true) ∨ (e = .idlePeriod ∧ idlePeriodEnabled s = true) ∨
    (e = .complete ∧ s.tcPending = true) ∨ (e = .dmaError ∧ s.dmaEn = true) ∨ e = .reset := by
  cases e with
  | _ => simp [enabled, isHostEvent]

/-- With the timer and the channel stopped and nothing pending, the hardware has no step but RESET. -/
theorem enabled_iff_of_stopped {s : State} (htc : s.tcPending = false) (hdma : s.dmaEn = false)
    (htmr : s.tmrEn = false) (e : Event) : enabled e s = true ↔ isHostEvent e = true ∨ e = .reset := by
  simp [enabled_iff, updateEnabled_iff, idlePeriodEnabled_iff, htc, hdma, htmr]

theorem enabled_iff_of_isTransferring {s : State} (h : s.isTransferring = true) (e : Event) :
    enabled e s = true ↔ isHostEvent e = true ∨ e = .update ∨ e = .dmaError ∨ e = .reset := by
  obtain ⟨-, -, htc, hdma, -⟩ := isTransferring_iff.mp h
  simp [enabled_iff, updateEnabled_of_isTransferring h, idlePeriodEnabled_iff, htc, hdma]

theorem enabled_iff_of_isCompletionPending {s : State} (h : s.isCompletionPending = true) (e : Event) :
    enabled e s = true ↔ isHostEvent e = true ∨ e = .idlePeriod ∨ e = .complete ∨ e = .reset := by
  obtain ⟨-, -, htc, hdma, -⟩ := isCompletionPending_iff.mp h
  simp [enabled_iff, updateEnabled_iff, idlePeriodEnabled_of_isCompletionPending h, htc, hdma]

/-- Settles O32, phase by phase; an enabled DMA_ERROR tells that the transfer runs, and then nothing is pending. -/
theorem enabledStepsByPhase : Obligations.EnabledStepsByPhase := by
  refine fun s => ⟨fun hs => ?_, enabled_iff_of_isTransferring, enabled_iff_of_isCompletionPending, fun hs => ?_,
    fun hphase => ?_⟩
  · obtain ⟨-, -, htc, hdma, htmr⟩ := isIdle_iff.mp hs
    exact enabled_iff_of_stopped htc hdma htmr
  · obtain ⟨-, -, htc, hdma, htmr⟩ := isFaulted_iff.mp hs
    exact enabled_iff_of_stopped htc hdma htmr
  · rintro ⟨hdma, hpend⟩
    obtain ⟨-, -, htc, -⟩ := isTransferring_iff.mp (isTransferring_of_phaseInv hphase hdma)
    cases htc.symm.trans hpend

/-- An event that is not enabled changes nothing (log 3). -/
theorem takeEvent_of_not_enabled {e : Event} {s : State} (h : ¬ enabled e s = true) : takeEvent e s = .next s :=
  if_neg h

/-- Settles O33: each condition denies the enabling condition of its event. -/
theorem disabledEventsChangeNothing : Obligations.DisabledEventsChangeNothing := by
  refine fun s => ⟨fun h => takeEvent_of_not_enabled fun he => ?_, fun h => takeEvent_of_not_enabled fun he => ?_,
    fun h => takeEvent_of_not_enabled (Bool.eq_false_iff.mp h),
    fun h => takeEvent_of_not_enabled (Bool.eq_false_iff.mp h)⟩
  · obtain ⟨htmr, hdma, hcnt⟩ := updateEnabled_iff.mp he
    rcases h with h | h | h
    · cases htmr.symm.trans h
    · cases hdma.symm.trans h
    · simp [h] at hcnt
  · obtain ⟨htmr, hdma⟩ := idlePeriodEnabled_iff.mp he
    rcases h with h | h
    · cases htmr.symm.trans h
    · cases hdma.symm.trans h

/-- Where nothing is pending, DMA_ERROR does not write TC_PENDING (R186; log 6). -/
theorem dmaError_eq {s : State} (htc : s.tcPending = false) :
    dmaError s = { s with fault := true, dmaEn := false, tmrEn := false, tmrCnt := 0 } :=
  congrArg (fun b => { s with fault := true, dmaEn := false, tmrEn := false, tmrCnt := 0, tcPending := b }) htc.symm

/-- Settles O31: of the phases only the transfer has the channel enabled, and the step is `dmaError`. -/
theorem dmaErrorFaults : Obligations.DmaErrorFaults := by
  refine fun s => ⟨Iff.rfl, fun hphase => ⟨isTransferring_of_phaseInv hphase, fun hs => ?_⟩, fun hs => ?_,
    fun hdma htc => ?_⟩
  · obtain ⟨-, -, -, hdma, -⟩ := isTransferring_iff.mp hs
    exact hdma
  · obtain ⟨hb, -, htc, -⟩ := isTransferring_iff.mp hs
    exact ⟨hb, htc⟩
  · rw [takeEvent_dmaError hdma, dmaError_eq htc]

/-- Settles O43: a faulted controller is busy, so its commands respond alone, with both flags shown; no event but RESET
leaves the phase. -/
theorem faultIsSticky : Obligations.FaultIsSticky := by
  intro s hs
  obtain ⟨hb, hf, -⟩ := isFaulted_iff.mp hs
  have hresp (st : Status) : (respond st s).resp = respWord st true true := by rw [respond_resp, hb, hf]
  have hstatus : statusWord s = 0x3 := by rw [statusWord, hb, hf]; rfl
  refine ⟨fun e t hne h => ?_, ⟨_, exec_submitFrame_of_busy hb, hresp _⟩,
    fun index bright red green blue hi hp => ⟨_, exec_setPixel_of_busy hi hp hb .., hresp _⟩,
    ⟨_, execQueryBusy_eq s, hresp _⟩, ?_, ⟨_, takeEvent_reset s, resetStep_fault s⟩⟩
  · have ht := (takeEvent_effect h).isFaulted hne hs
    obtain ⟨hb', hf', htc, hdma, htmr⟩ := isFaulted_iff.mp ht
    exact ⟨ht, hf', hb', htc, hdma, htmr⟩
  · rw [← hstatus]
    exact takeEvent_read_register s (off := 0x0C) (by decide) rfl

end Sys2Proof.Machine
end

section
/-! SUPPORT. RESET from any state, the reset interval of a valid build, and the frames of a fair schedule (R220, R236,
R240, R241). -/

namespace Sys2Proof.Machine

/-! RESET (R220). -/

/-- Settles O50: RESET clears the registers, and its refilled slots are those of power-on. -/
theorem resetFromAnyState : Obligations.ResetFromAnyState := by
  refine fun s => ⟨resetStep s, takeEvent_reset s, resetStep_eq s, fun k hk => ?_, fun k hlo hhi => ?_, fun k hk => ?_,
    isIdle_resetStep s, pin_of_stopped (resetStep_tmrEn s)⟩
  · rw [readElem_resetStep s (by simp only [Build.frameLen]; omega), resetElem_pixel hk]
  · rw [readElem_resetStep s hhi, resetElem_reset hlo]
    rfl
  · rw [readElem_resetStep s hk, readElem_powerOn]

/-! The reset interval (R236). -/

/-- The reset interval of a valid build is at least 50 microseconds, multiplied out (R236). -/
theorem latch_of_valid {b : Build} (hv : b.valid = true) :
    50 * b.timerHz ≤ (24 * b.r - 1) * b.periodTicks * 1000000 := by
  simp only [Build.valid, Build.latchOk, Bool.and_eq_true, decide_eq_true_eq] at hv
  exact hv.2

/-- Settles O60: one reset slot gives 23 bit periods of the interval, and at 1.25 microseconds each these are less than
50 microseconds. -/
theorem resetIntervalNeedsTwoSlots : Obligations.ResetIntervalNeedsTwoSlots := by
  intro b hv hhz hbit
  have hlatch := latch_of_valid hv
  have hpos := resetSlots_pos_of_valid hv
  by_contra hlt
  have hone : b.r = 1 := by omega
  rw [hone] at hlatch
  omega

/-! The states of an infinite schedule. -/

/-- An event has one of its effects on the state it leaves; a fault or a refusal leaves the block as it is. -/
theorem afterEvent_effect (e : Event) (s : State) : EventEffect s e (afterEvent e s) := by
  have hreset : e = .reset → takeEvent e s = .next (resetStep s) := by
    rintro rfl
    exact takeEvent_reset s
  unfold afterEvent
  cases h : takeEvent e s with
  | next t => exact takeEvent_effect h
  | fault r => exact .quiet (fun he => by simp [hreset he] at h) (.refl s)
  | refused r => exact .quiet (fun he => by simp [hreset he] at h) (.refl s)

theorem afterEvent_of_next {e : Event} {s t : State} (h : takeEvent e s = .next t) : afterEvent e s = t := by
  rw [afterEvent, h]

/-- The next event of a schedule has one of its effects on the state reached. -/
theorem stateAt_effect (σ : Nat → Event) (s : State) (n : Nat) :
    EventEffect (stateAt σ s n) (σ n) (stateAt σ s (n + 1)) :=
  afterEvent_effect (σ n) (stateAt σ s n)

theorem stateAt_succ_of_next {σ : Nat → Event} {s t : State} {n : Nat}
    (h : takeEvent (σ n) (stateAt σ s n) = .next t) : stateAt σ s (n + 1) = t :=
  afterEvent_of_next h

/-- No schedule changes the build parameters (R49). -/
@[simp] theorem stateAt_build (σ : Nat → Event) (s : State) (n : Nat) : (stateAt σ s n).build = s.build := by
  induction n with
  | zero => rfl
  | succ n ih => exact (stateAt_effect σ s n).build_eq.trans ih

/-- Every schedule keeps a property that the block's operations keep. -/
theorem KeptByBlock.stateAt {P : State → Prop} (hP : KeptByBlock P) {s : State} (hv : s.build.valid = true) (hs : P s)
    (σ : Nat → Event) (n : Nat) : P (stateAt σ s n) := by
  induction n with
  | zero => exact hs
  | succ n ih => exact hP.effect (by rw [stateAt_build]; exact hv) (stateAt_effect σ s n) ih

/-! One event in the two phases of a frame (R144). -/

/-- Of the events but RESET and DMA_ERROR, only an UPDATE moves a controller that is transferring. -/
theorem EventEffect.sameBlock_or_transferElement {s t : State} {e : Event} (h : EventEffect s e t)
    (hs : s.isTransferring = true) (hne : e ≠ .reset ∧ e ≠ .dmaError) : SameBlock s t ∨ t = transferElement s := by
  obtain ⟨hb, -, htc, hdma, -⟩ := isTransferring_iff.mp hs
  cases h with
  | quiet _ ht => exact .inl ht
  | arm hidle => simp [hb] at hidle
  | pixel i w hidle => simp [hb] at hidle
  | update => exact .inr rfl
  | idlePeriod he => simp [idlePeriodEnabled_iff, hdma] at he
  | complete he => simp [htc] at he
  | dmaError => exact absurd rfl hne.2
  | reset => exact absurd rfl hne.1

/-- Of the events but RESET, only COMPLETE ends a pending completion. -/
theorem EventEffect.isCompletionPending {s t : State} {e : Event} (h : EventEffect s e t)
    (hs : s.isCompletionPending = true) (hreset : e ≠ .reset) (hcomplete : e ≠ .complete) :
    t.isCompletionPending = true := by
  obtain ⟨hb, -, -, hdma, -⟩ := isCompletionPending_iff.mp hs
  cases h with
  | quiet _ ht =>
    obtain ⟨_, _, _, _, _, _, rfl⟩ := ht
    exact hs
  | arm hidle => simp [hb] at hidle
  | pixel i w hidle => simp [hb] at hidle
  | update he => simp [updateEnabled_iff, hdma] at he
  | idlePeriod => exact hs
  | complete => exact absurd rfl hcomplete
  | dmaError he => simp [hdma] at he
  | reset => exact absurd rfl hreset

/-- A TIMER/DMA step of a controller that is transferring is its UPDATE (R145). -/
theorem afterEvent_of_isTimerStep {e : Event} {s : State} (hs : s.isTransferring = true) (h : isTimerStep e s = true) :
    afterEvent e s = transferElement s := by
  obtain ⟨-, -, -, hdma, -⟩ := isTransferring_iff.mp hs
  have hidle : idlePeriodEnabled s = false := by simp [idlePeriodEnabled, hdma]
  obtain ⟨rfl, he⟩ : e = .update ∧ updateEnabled s = true := by simpa [isTimerStep, hidle] using h
  exact afterEvent_of_next (takeEvent_update_of_lt he (dmaPtr_lt_of_isTransferring hs))

/-! A frame under fairness (R240). -/

/-- Where `P` holds until `R` does, and some later time meets `R` if `P` lasts until it, a time meets both. -/
theorem exists_exit {P R : Nat → Prop} {n : Nat} (hn : P n) (hkeep : ∀ m, P m → R m ∨ P (m + 1))
    (hfair : ∃ k, n ≤ k ∧ (P k → R k)) : ∃ k, P k ∧ R k := by
  obtain ⟨k, hk, hexit⟩ := hfair
  by_contra hnone
  have hstay : ∀ m, n ≤ m → P m := fun m hm => by
    induction m, hm using Nat.le_induction with
    | base => exact hn
    | succ m _ ih => exact (hkeep m ih).resolve_left fun hR => hnone ⟨m, ih, hR⟩
  exact hnone ⟨k, hstay k hk, hexit (hstay k hk)⟩

section
variable {σ : Nat → Event} {s : State} (hne : ∀ n, σ n ≠ .reset ∧ σ n ≠ .dmaError)
include hne

/-- Under fairness (a) a controller that is transferring moves its next element, and no element is added before it does. -/
theorem exists_update_of_timerFair (hfair : TimerFair σ s) {n c : Nat}
    (hn : (stateAt σ s n).isTransferring = true) (hc : (stateAt σ s n).dmaCnt.toNat ≤ c) :
    ∃ k, ((stateAt σ s k).isTransferring = true ∧ (stateAt σ s k).dmaCnt.toNat ≤ c) ∧
      stateAt σ s (k + 1) = transferElement (stateAt σ s k) := by
  refine exists_exit (n := n)
    (P := fun k => (stateAt σ s k).isTransferring = true ∧ (stateAt σ s k).dmaCnt.toNat ≤ c) ⟨hn, hc⟩ ?_ ?_
  · rintro m ⟨hm, hcm⟩
    rcases (stateAt_effect σ s m).sameBlock_or_transferElement hm (hne m) with hsame | hmove
    · obtain ⟨_, _, _, _, _, _, heq⟩ := hsame
      rw [heq]
      exact .inr ⟨hm, hcm⟩
    · exact .inl hmove
  · obtain ⟨-, -, -, -, htmr, -⟩ := isTransferring_iff.mp hn
    obtain ⟨k, hk, hstep⟩ := hfair n htmr
    refine ⟨k, hk, fun ⟨hP, _⟩ => ?_⟩
    obtain ⟨-, -, -, -, htmr, -⟩ := isTransferring_iff.mp hP
    exact afterEvent_of_isTimerStep hP (hstep.resolve_left (by simp [htmr]))

/-- Under fairness (a) a transfer comes to its end, by the elements left. -/
theorem exists_isCompletionPending_of_timerFair (hv : s.build.valid = true) (hfair : TimerFair σ s) {n c : Nat}
    (hn : (stateAt σ s n).isTransferring = true) (hc : (stateAt σ s n).dmaCnt.toNat ≤ c) :
    ∃ m, (stateAt σ s m).isCompletionPending = true := by
  induction c generalizing n with
  | zero =>
    obtain ⟨-, -, -, -, -, -, hleft⟩ := isTransferring_iff.mp hn
    omega
  | succ c ih =>
    obtain ⟨k, ⟨hk, hck⟩, hmove⟩ := exists_update_of_timerFair hne hfair hn hc
    have hM : (stateAt σ s k).build.frameLen ≤ 65535 := by rw [stateAt_build]; exact frameLen_le_of_valid hv
    have hptr := dmaPtr_lt_of_isTransferring hk
    obtain ⟨-, -, -, -, -, -, hleft⟩ := isTransferring_iff.mp hk
    obtain ⟨-, hcnt⟩ := toNat_transferElement (s := stateAt σ s k) (by omega) hleft
    rcases phase_transferElement hM hk with h | h
    · exact ih (n := k + 1) (by rw [hmove]; exact h) (by rw [hmove, hcnt]; omega)
    · exact ⟨k + 1, by rw [hmove]; exact h⟩

/-- Under fairness (b) a pending completion is taken, and the block is Idle after it. -/
theorem exists_complete_of_completionFair (hfair : CompletionFair σ s) {n : Nat}
    (hn : (stateAt σ s n).isCompletionPending = true) :
    ∃ k, σ k = .complete ∧ (stateAt σ s k).isCompletionPending = true ∧ (stateAt σ s (k + 1)).isIdle = true := by
  have hpending {m : Nat} (hm : (stateAt σ s m).isCompletionPending = true) : (stateAt σ s m).tcPending = true := by
    obtain ⟨-, -, htc, -⟩ := isCompletionPending_iff.mp hm
    exact htc
  obtain ⟨m, hm, hstep⟩ := hfair n (hpending hn)
  obtain ⟨k, hk, hcomplete⟩ := exists_exit (P := fun k => (stateAt σ s k).isCompletionPending = true) hn
    (fun m hm => or_iff_not_imp_left.mpr ((stateAt_effect σ s m).isCompletionPending hm (hne m).1))
    ⟨m, hm, fun hP => hstep.resolve_left (by simp [hpending hP])⟩
  have hnext : stateAt σ s (k + 1) = completeFrame (stateAt σ s k) :=
    stateAt_succ_of_next (by rw [hcomplete]; exact takeEvent_complete (hpending hk))
  exact ⟨k, hcomplete, hk, by rw [hnext]; exact isIdle_completeFrame hk⟩

end

/-! The end of a run (R241). -/

theorem isIdle_of_quiet {s : State} (hp : s.phaseInv = true) (hq : s.quiet = true) : s.isIdle = true := by
  simp only [State.quiet, Bool.and_eq_true, Bool.not_eq_true'] at hq
  exact isIdle_of_phaseInv hp hq.1

theorem quiet_of_isIdle {s : State} (h : s.isIdle = true) : s.quiet = true := by
  obtain ⟨hb, hf, -⟩ := isIdle_iff.mp h
  simp [State.quiet, hb, hf]

/-- A run that has an end has a first one. -/
theorem exists_runEndsAt {σ : Nat → Event} {s : State} {n : Nat} (h : AtEnd σ s n) : ∃ m, RunEndsAt σ s m := by
  classical
  exact ⟨Nat.find ⟨n, h⟩, Nat.find_spec ⟨n, h⟩, fun _ => Nat.find_min ⟨n, h⟩⟩

/-- Settles O48: fairness (a) brings the transfer to its end and fairness (b) takes its completion; where no command
comes that Idle state is an end of the run, and the first end is Idle as well, by the phases. -/
theorem fairFramesComplete : Obligations.FairFramesComplete := by
  intro s t σ hv hi ht hne htimer hcompletion
  have harm := submitFrame_of_idle hi ht
  have hflight : FrameInFlight s t := (FrameInFlight.armFrame hv hi).sameBlock harm
  have hvt : t.build.valid = true := by rw [hflight.build]; exact hv
  have hinv : t.controllerInv :=
    controllerInv_kept.same harm ⟨(FrameInFlight.armFrame hv hi).phaseInv, rangeInv_armFrame hv⟩
  obtain ⟨n, hpend⟩ : ∃ n, (stateAt σ t n).isCompletionPending = true :=
    hflight.phase.elim (fun htr => exists_isCompletionPending_of_timerFair hne hvt htimer (n := 0) htr le_rfl)
      fun hpend => ⟨0, hpend⟩
  obtain ⟨k, hk, hpend, hidle⟩ := exists_complete_of_completionFair hne hcompletion hpend
  refine ⟨⟨k, hk, hpend, hidle⟩, fun hcmd => ?_⟩
  have hend : AtEnd σ t (k + 1) := ⟨fun m _ => by rw [hflight.build]; exact hcmd m, quiet_of_isIdle hidle⟩
  obtain ⟨m, hm⟩ := exists_runEndsAt hend
  obtain ⟨hphase, -⟩ := controllerInv_kept.stateAt hvt hinv σ m
  have ⟨⟨_, hquiet⟩, _⟩ := hm
  obtain ⟨-, -, htc, -, htmr⟩ := isIdle_iff.mp (isIdle_of_quiet hphase hquiet)
  exact ⟨m, hm, htmr, htc⟩

end Sys2Proof.Machine
end
